-- ==== Sys2Proof/Word.lean ====
section
/-! DEFINITION. The word types of the SM2/SM3 core and the value types built from them
(spec/00_scope.md R6, R9, R12; spec/10_state.md R32 to R34). -/

namespace Sys2Proof

/-- One 32-bit register of the window, or one 32-bit command word. -/
abbrev Word := BitVec 32

/-- One byte of an SM3 message. -/
abbrev Byte := BitVec 8

/-- A bignum: an unsigned integer in `[0, 2^256)` (R6, R9, R32). -/
abbrev Bignum := BitVec 256

/-- A Jacobian triple `(X, Y, Z)`; `Z = 0` is the point at infinity whatever `X` and `Y` hold (R12). -/
structure Point where
  x : Bignum
  y : Bignum
  z : Bignum
  deriving DecidableEq, Repr

/-- One digit of a scalar's encoding: `code_num` and `shift_bit` (spec/42_scalar.md R250). -/
structure Digit where
  code  : Int
  shift : Nat
  deriving DecidableEq, Repr

/-- The eight 32-bit words `A..H` of an SM3 chaining value or round state (spec/10_state.md R37). -/
structure Chain where
  a : Word
  b : Word
  c : Word
  d : Word
  e : Word
  f : Word
  g : Word
  h : Word
  deriving DecidableEq, Repr

end Sys2Proof
end

