-- ==== Sys2Proof/Syntax.lean ====
section
/-! DEFINITION. The command set, one constructor per row of spec/opcode_table.json
(spec/30_encoding.md R113, R115). A register operand is its raw 4-bit field: a `Fin 16`. A field typed
`J` names a point register by its low three bits and a field typed `Bpair` names an even-numbered pair
(R112); that these fields are well formed is Sys2Proof/WellFormed.lean. -/

namespace Sys2Proof

/-- A 4-bit operand field of the command word (R111). -/
abbrev Field := Fin 16

/-- A legal command. Operands stand in the order RD, RS1, RS2, RS3 (R120). -/
inductive Instr where
  | nop
  | addp (rd rs1 rs2 : Field)
  | subp (rd rs1 rs2 : Field)
  | mulp (rd rs1 rs2 : Field)
  | sqrp (rd rs1 : Field)
  | modp (rd rs1 rs2 : Field)
  | invp (rd rs1 : Field)
  | addn (rd rs1 rs2 : Field)
  | chkn (rs1 : Field)
  | cmp (rs1 rs2 : Field)
  | isval (rs1 : Field)
  | pdbl (rd rs1 : Field)
  | padd (rd rs1 rs2 : Field)
  | pneg (rd rs1 : Field)
  | tojcb (rd rs1 rs2 : Field)
  | toaff (rd rs1 : Field)
  | senc (rs1 : Field)
  | dsm (rd rs1 rs2 rs3 : Field)
  | sm3init
  | sm3blk
  | sm3fin (imm : Fin 64)
  deriving DecidableEq, Repr

end Sys2Proof
end

