-- ==== Sys2Proof/WellFormed.lean ====
section
/-! DEFINITION. Which terms of `Instr` are legal commands (spec/30_encoding.md R112): a J field has
bit 3 clear, a Bpair field has bit 0 clear. A B field and the immediate take every value of their
type. -/

namespace Sys2Proof

/-- A field typed `J`: bit 3 is 0 (R112). -/
def Field.isPoint (f : Field) : Bool := f.val < 8

/-- A field typed `Bpair`: bit 0 is 0 (R112). -/
def Field.isPair (f : Field) : Bool := f.val % 2 == 0

/-- The checks of R112 on every operand of the instruction's format (R113). -/
def Instr.wellFormed : Instr → Bool
  | .nop => true
  | .addp _ _ _ => true
  | .subp _ _ _ => true
  | .mulp _ _ _ => true
  | .sqrp _ _ => true
  | .modp _ _ _ => true
  | .invp _ _ => true
  | .addn _ _ _ => true
  | .chkn _ => true
  | .cmp _ _ => true
  | .isval _ => true
  | .pdbl rd rs1 => rd.isPoint && rs1.isPoint
  | .padd rd rs1 rs2 => rd.isPoint && rs1.isPoint && rs2.isPoint
  | .pneg rd rs1 => rd.isPoint && rs1.isPoint
  | .tojcb rd _ _ => rd.isPoint
  | .toaff rd rs1 => rd.isPair && rs1.isPoint
  | .senc _ => true
  | .dsm rd _ _ rs3 => rd.isPair && rs3.isPair
  | .sm3init => true
  | .sm3blk => true
  | .sm3fin _ => true

end Sys2Proof
end

