-- ==== Sys2Proof/Decode.lean ====
section
/-! DEFINITION. Decoding of the 32-bit command word, total, rejecting by name, and the encoder
(spec/30_encoding.md R110 to R119). -/

namespace Sys2Proof

/-- The fields of a command word (R111). -/
structure Fields where
  op  : BitVec 8
  rd  : Field
  rs1 : Field
  rs2 : Field
  rs3 : Field
  imm : Fin 64
  rsv : BitVec 2
  deriving DecidableEq, Repr

/-- The fields at the bit positions of R111. -/
def Fields.ofWord (w : Word) : Fields where
  op  := w.extractLsb' 0 8
  rd  := (w.extractLsb' 8 4).toFin
  rs1 := (w.extractLsb' 12 4).toFin
  rs2 := (w.extractLsb' 16 4).toFin
  rs3 := (w.extractLsb' 20 4).toFin
  imm := (w.extractLsb' 24 6).toFin
  rsv := w.extractLsb' 30 2

/-- `word = OP | RD << 8 | RS1 << 12 | RS2 << 16 | RS3 << 20 | IMM6 << 24 | RSV << 30` (R114). -/
def Fields.toWord (f : Fields) : Word :=
  f.rsv ++ BitVec.ofFin (w := 6) f.imm ++ BitVec.ofFin (w := 4) f.rs3 ++ BitVec.ofFin (w := 4) f.rs2 ++
    BitVec.ofFin (w := 4) f.rs1 ++ BitVec.ofFin (w := 4) f.rd ++ f.op

/-- The opcodes of R115. -/
inductive Op where
  | nop | addp | subp | mulp | sqrp | modp | invp | addn | chkn | cmp | isval
  | pdbl | padd | pneg | tojcb | toaff | senc | dsm | sm3init | sm3blk | sm3fin
  deriving DecidableEq, Repr

/-- The type of an operand field (R112); `unused` fields must be zero (R113). -/
inductive FieldType where
  | unused | big | point | pair
  deriving DecidableEq, Repr

/-- A format of R113: the type of each register field and whether the immediate is used. -/
structure Format where
  rd  : FieldType
  rs1 : FieldType
  rs2 : FieldType
  rs3 : FieldType
  imm : Bool
  deriving DecidableEq, Repr

/-- The opcode column of R115. -/
def Op.byte : Op → BitVec 8
  | .nop => 0x01#8
  | .addp => 0x10#8
  | .subp => 0x11#8
  | .mulp => 0x12#8
  | .sqrp => 0x13#8
  | .modp => 0x14#8
  | .invp => 0x15#8
  | .addn => 0x18#8
  | .chkn => 0x19#8
  | .cmp => 0x1A#8
  | .isval => 0x1B#8
  | .pdbl => 0x20#8
  | .padd => 0x21#8
  | .pneg => 0x22#8
  | .tojcb => 0x23#8
  | .toaff => 0x24#8
  | .senc => 0x30#8
  | .dsm => 0x31#8
  | .sm3init => 0x40#8
  | .sm3blk => 0x41#8
  | .sm3fin => 0x42#8

/-- The mnemonic column of R115. -/
def Op.mnemonic : Op → String
  | .nop => "NOP"
  | .addp => "ADDP"
  | .subp => "SUBP"
  | .mulp => "MULP"
  | .sqrp => "SQRP"
  | .modp => "MODP"
  | .invp => "INVP"
  | .addn => "ADDN"
  | .chkn => "CHKN"
  | .cmp => "CMP"
  | .isval => "ISVAL"
  | .pdbl => "PDBL"
  | .padd => "PADD"
  | .pneg => "PNEG"
  | .tojcb => "TOJCB"
  | .toaff => "TOAFF"
  | .senc => "SENC"
  | .dsm => "DSM"
  | .sm3init => "SM3INIT"
  | .sm3blk => "SM3BLK"
  | .sm3fin => "SM3FIN"

/-- The formats of R113, by the format column of R115. -/
def Op.format : Op → Format
  | .nop => ⟨.unused, .unused, .unused, .unused, false⟩
  | .addp => ⟨.big, .big, .big, .unused, false⟩
  | .subp => ⟨.big, .big, .big, .unused, false⟩
  | .mulp => ⟨.big, .big, .big, .unused, false⟩
  | .sqrp => ⟨.big, .big, .unused, .unused, false⟩
  | .modp => ⟨.big, .big, .big, .unused, false⟩
  | .invp => ⟨.big, .big, .unused, .unused, false⟩
  | .addn => ⟨.big, .big, .big, .unused, false⟩
  | .chkn => ⟨.unused, .big, .unused, .unused, false⟩
  | .cmp => ⟨.unused, .big, .big, .unused, false⟩
  | .isval => ⟨.unused, .big, .unused, .unused, false⟩
  | .pdbl => ⟨.point, .point, .unused, .unused, false⟩
  | .padd => ⟨.point, .point, .point, .unused, false⟩
  | .pneg => ⟨.point, .point, .unused, .unused, false⟩
  | .tojcb => ⟨.point, .big, .big, .unused, false⟩
  | .toaff => ⟨.pair, .point, .unused, .unused, false⟩
  | .senc => ⟨.unused, .big, .unused, .unused, false⟩
  | .dsm => ⟨.pair, .big, .big, .pair, false⟩
  | .sm3init => ⟨.unused, .unused, .unused, .unused, false⟩
  | .sm3blk => ⟨.unused, .unused, .unused, .unused, false⟩
  | .sm3fin => ⟨.unused, .unused, .unused, .unused, true⟩

/-- Every opcode of R115, in the table's order. -/
def Op.all : List Op :=
  [.nop, .addp, .subp, .mulp, .sqrp, .modp, .invp, .addn, .chkn, .cmp, .isval] ++
  [.pdbl, .padd, .pneg, .tojcb, .toaff, .senc, .dsm, .sm3init, .sm3blk, .sm3fin]

/-- The opcode of a byte; `none` for the reserved opcodes (R117). -/
def Op.ofByte (b : BitVec 8) : Option Op := Op.all.find? fun o => o.byte == b

/-- Why a command word is illegal (R117). All of them complete with `E_ILLEGAL`; the names are the
model's. -/
inductive Illegal where
  /-- The OP byte is none of R115's (safe: the spec's own E_ILLEGAL). -/
  | reservedOpcode
  /-- RSV is not 0. -/
  | reservedBits
  /-- A field the format does not use is not 0. -/
  | unusedField
  /-- Bit 3 of a J field is 1. -/
  | pointField
  /-- Bit 0 of a Bpair field is 1. -/
  | oddPair
  deriving DecidableEq, Repr

/-- What is wrong with one register field of the given type (R112, R113). -/
def FieldType.check : FieldType → Field → Option Illegal
  | .unused, f => if f.val = 0 then none else some .unusedField
  | .big, _ => none
  | .point, f => if f.isPoint then none else some .pointField
  | .pair, f => if f.isPair then none else some .oddPair

/-- What is wrong with the immediate field (R113). -/
def Format.checkImm (m : Format) (imm : Fin 64) : Option Illegal :=
  if m.imm || imm.val == 0 then none else some .unusedField

/-- What is wrong with the fields of a word of the given format (R117). -/
def Format.check (m : Format) (f : Fields) : Option Illegal :=
  (if f.rsv = 0#2 then none else some .reservedBits) <|> m.rd.check f.rd <|> m.rs1.check f.rs1 <|>
    m.rs2.check f.rs2 <|> m.rs3.check f.rs3 <|> m.checkImm f.imm

/-- The instruction of an opcode, from its operand fields (R113). -/
def Op.build (o : Op) (f : Fields) : Instr :=
  match o with
  | .nop => .nop
  | .addp => .addp f.rd f.rs1 f.rs2
  | .subp => .subp f.rd f.rs1 f.rs2
  | .mulp => .mulp f.rd f.rs1 f.rs2
  | .sqrp => .sqrp f.rd f.rs1
  | .modp => .modp f.rd f.rs1 f.rs2
  | .invp => .invp f.rd f.rs1
  | .addn => .addn f.rd f.rs1 f.rs2
  | .chkn => .chkn f.rs1
  | .cmp => .cmp f.rs1 f.rs2
  | .isval => .isval f.rs1
  | .pdbl => .pdbl f.rd f.rs1
  | .padd => .padd f.rd f.rs1 f.rs2
  | .pneg => .pneg f.rd f.rs1
  | .tojcb => .tojcb f.rd f.rs1 f.rs2
  | .toaff => .toaff f.rd f.rs1
  | .senc => .senc f.rs1
  | .dsm => .dsm f.rd f.rs1 f.rs2 f.rs3
  | .sm3init => .sm3init
  | .sm3blk => .sm3blk
  | .sm3fin => .sm3fin f.imm

/-- The decoder: every word is one instruction or illegal by name (R117, R119). -/
def decode (w : Word) : Except Illegal Instr :=
  let f := Fields.ofWord w
  match Op.ofByte f.op with
  | none => .error .reservedOpcode
  | some o =>
    match o.format.check f with
    | some e => .error e
    | none => .ok (o.build f)

/-! ### The encoder (R114) -/

/-- The opcode of an instruction. -/
def Instr.op : Instr → Op
  | .nop => .nop
  | .addp _ _ _ => .addp
  | .subp _ _ _ => .subp
  | .mulp _ _ _ => .mulp
  | .sqrp _ _ => .sqrp
  | .modp _ _ _ => .modp
  | .invp _ _ => .invp
  | .addn _ _ _ => .addn
  | .chkn _ => .chkn
  | .cmp _ _ => .cmp
  | .isval _ => .isval
  | .pdbl _ _ => .pdbl
  | .padd _ _ _ => .padd
  | .pneg _ _ => .pneg
  | .tojcb _ _ _ => .tojcb
  | .toaff _ _ => .toaff
  | .senc _ => .senc
  | .dsm _ _ _ _ => .dsm
  | .sm3init => .sm3init
  | .sm3blk => .sm3blk
  | .sm3fin _ => .sm3fin

/-- The fields of an instruction's word, every unused field 0 (R114). -/
def Instr.fields (i : Instr) : Fields :=
  match i with
  | .nop => ⟨i.op.byte, 0, 0, 0, 0, 0, 0#2⟩
  | .addp rd rs1 rs2 => ⟨i.op.byte, rd, rs1, rs2, 0, 0, 0#2⟩
  | .subp rd rs1 rs2 => ⟨i.op.byte, rd, rs1, rs2, 0, 0, 0#2⟩
  | .mulp rd rs1 rs2 => ⟨i.op.byte, rd, rs1, rs2, 0, 0, 0#2⟩
  | .sqrp rd rs1 => ⟨i.op.byte, rd, rs1, 0, 0, 0, 0#2⟩
  | .modp rd rs1 rs2 => ⟨i.op.byte, rd, rs1, rs2, 0, 0, 0#2⟩
  | .invp rd rs1 => ⟨i.op.byte, rd, rs1, 0, 0, 0, 0#2⟩
  | .addn rd rs1 rs2 => ⟨i.op.byte, rd, rs1, rs2, 0, 0, 0#2⟩
  | .chkn rs1 => ⟨i.op.byte, 0, rs1, 0, 0, 0, 0#2⟩
  | .cmp rs1 rs2 => ⟨i.op.byte, 0, rs1, rs2, 0, 0, 0#2⟩
  | .isval rs1 => ⟨i.op.byte, 0, rs1, 0, 0, 0, 0#2⟩
  | .pdbl rd rs1 => ⟨i.op.byte, rd, rs1, 0, 0, 0, 0#2⟩
  | .padd rd rs1 rs2 => ⟨i.op.byte, rd, rs1, rs2, 0, 0, 0#2⟩
  | .pneg rd rs1 => ⟨i.op.byte, rd, rs1, 0, 0, 0, 0#2⟩
  | .tojcb rd rs1 rs2 => ⟨i.op.byte, rd, rs1, rs2, 0, 0, 0#2⟩
  | .toaff rd rs1 => ⟨i.op.byte, rd, rs1, 0, 0, 0, 0#2⟩
  | .senc rs1 => ⟨i.op.byte, 0, rs1, 0, 0, 0, 0#2⟩
  | .dsm rd rs1 rs2 rs3 => ⟨i.op.byte, rd, rs1, rs2, rs3, 0, 0#2⟩
  | .sm3init => ⟨i.op.byte, 0, 0, 0, 0, 0, 0#2⟩
  | .sm3blk => ⟨i.op.byte, 0, 0, 0, 0, 0, 0#2⟩
  | .sm3fin imm => ⟨i.op.byte, 0, 0, 0, 0, imm, 0#2⟩

/-- The command word of an instruction (R114). -/
def encode (i : Instr) : Word := i.fields.toWord

/-! ### The opcode table (R115) -/

/-- One row of R115. -/
structure Row where
  op     : Op
  pattern : Word
  mask    : Word
  deriving DecidableEq, Repr

/-- `(word & mask) == match` (R114). -/
def Row.selects (r : Row) (w : Word) : Bool := w &&& r.mask == r.pattern

/-- The match and mask columns of R115. -/
def opcodeTable : List Row :=
  [⟨.nop, 0x00000001#32, 0xFFFFFFFF#32⟩,
   ⟨.addp, 0x00000010#32, 0xFFF000FF#32⟩,
   ⟨.subp, 0x00000011#32, 0xFFF000FF#32⟩,
   ⟨.mulp, 0x00000012#32, 0xFFF000FF#32⟩,
   ⟨.sqrp, 0x00000013#32, 0xFFFF00FF#32⟩,
   ⟨.modp, 0x00000014#32, 0xFFF000FF#32⟩,
   ⟨.invp, 0x00000015#32, 0xFFFF00FF#32⟩] ++
  [⟨.addn, 0x00000018#32, 0xFFF000FF#32⟩,
   ⟨.chkn, 0x00000019#32, 0xFFFF0FFF#32⟩,
   ⟨.cmp, 0x0000001A#32, 0xFFF00FFF#32⟩,
   ⟨.isval, 0x0000001B#32, 0xFFFF0FFF#32⟩,
   ⟨.pdbl, 0x00000020#32, 0xFFFF88FF#32⟩,
   ⟨.padd, 0x00000021#32, 0xFFF888FF#32⟩,
   ⟨.pneg, 0x00000022#32, 0xFFFF88FF#32⟩] ++
  [⟨.tojcb, 0x00000023#32, 0xFFF008FF#32⟩,
   ⟨.toaff, 0x00000024#32, 0xFFFF81FF#32⟩,
   ⟨.senc, 0x00000030#32, 0xFFFF0FFF#32⟩,
   ⟨.dsm, 0x00000031#32, 0xFF1001FF#32⟩,
   ⟨.sm3init, 0x00000040#32, 0xFFFFFFFF#32⟩,
   ⟨.sm3blk, 0x00000041#32, 0xFFFFFFFF#32⟩,
   ⟨.sm3fin, 0x00000042#32, 0xC0FFFFFF#32⟩]

/-- The instruction the decoder reads from a word numbered as spec/opcode_table.json numbers it: bits
at and above `nbits` are 0, and a command is one 32-bit word (R110). -/
def decodeTableWord (nbits w : Nat) : Option Instr :=
  match decode (BitVec.ofNat 32 (w % 2 ^ nbits)) with
  | .ok i => some i
  | .error _ => none

end Sys2Proof
end

