-- ==== Sys2Proof/Machine/Bits.lean ====
section
/-! DEFINITION. Bit-field, byte-order and word-order helpers (spec/10_state.md R33, R53;
spec/20_memory.md R86, R88). -/

namespace Sys2Proof.Machine

/-- Word `k` of a bignum: bits `[32k+31 : 32k]` (R53). -/
def wordOf (x : Bignum) (k : Nat) : Word := x.extractLsb' (32 * k) 32

/-- The bits of a bignum's word `k`. -/
def wordMask (k : Nat) : Bignum := 0xFFFFFFFF#256 <<< (32 * k)

/-- The bignum with word `k` replaced, the other bits kept (R53). -/
def withWord (x : Bignum) (k : Nat) (w : Word) : Bignum :=
  (x &&& ~~~wordMask k) ||| (w.setWidth 256 <<< (32 * k))

/-- Byte `t` of an SM3 word: bits `[31-8t : 24-8t]`, the first byte most significant (R86, R87). -/
def byteOf (w : Word) (t : Nat) : Byte := w.extractLsb' (24 - 8 * t) 8

/-- The four bytes of an SM3 word, most significant first (R86). -/
def bytesOf (w : Word) : List Byte := [byteOf w 0, byteOf w 1, byteOf w 2, byteOf w 3]

/-- The big-endian 32-bit words of a byte string (R86). -/
def beWords : List Byte → List Word
  | b0 :: b1 :: b2 :: b3 :: rest => (b0 ++ b1 ++ b2 ++ b3) :: beWords rest
  | _ => []

/-- The eight bytes of a 64-bit value, most significant first (spec/43_sm3.md R310). -/
def beBytes64 (x : BitVec 64) : List Byte :=
  [x.extractLsb' 56 8, x.extractLsb' 48 8, x.extractLsb' 40 8, x.extractLsb' 32 8,
   x.extractLsb' 24 8, x.extractLsb' 16 8, x.extractLsb' 8 8, x.extractLsb' 0 8]

end Sys2Proof.Machine
end

