-- ==== Sys2Proof/Config.lean ====
section
/-! DEFINITION. What is fixed for one block, and the free values: values the spec leaves unspecified,
as constants with no body, so that nothing can be proved of what they are. -/

namespace Sys2Proof

/-- The block identity, constant in every instance (spec/10_state.md R41). -/
def Config.id : Word := 0x534D3201#32

/-- The unspecified content of the UNINIT 32-bit word at window offset `off` (spec/10_state.md R31,
spec/93_implementation_defined.md I-10) as a host read answers it: a free value. `epoch` counts the
events that are not reads, so two reads with no event between them agree (spec/20_memory.md R92) and
nothing else is promised (log 7). -/
opaque Config.uninitWord (epoch off : Nat) : Word

/-- The value returned by a host read the spec leaves open: a data word while BUSY
(spec/20_memory.md R83, spec/70_reset_and_hazards.md R461), another width than 32 bits or a
misaligned offset (spec/20_memory.md R81, R82). A free value, fresh for each such read (log 7). -/
opaque Config.openRead (draws : Nat) : Word

end Sys2Proof
end

