-- ==== Sys2Proof/Machine/State.lean ====
section
/-! DEFINITION. The state of the block as plain data (spec/10_state.md R30 to R57), the host's accesses
and the clock cycles still to come, the reasons a step can stop, and the state after hardware reset. -/

namespace Sys2Proof.Machine

/-- A 32-bit storage word and whether anything has written it since hardware reset (R31). -/
structure WordCell where
  value   : Word
  written : Bool
  deriving DecidableEq, Repr

/-- A 256-bit storage register; bit `k` of `written` says whether its 32-bit word `k` has been written
since hardware reset (R31, R53). -/
structure BigCell where
  value   : Bignum
  written : BitVec 8
  deriving DecidableEq, Repr

/-- A Jacobian point register (R34). -/
structure PointCell where
  x : BigCell
  y : BigCell
  z : BigCell
  deriving DecidableEq, Repr

/-- The SM3 context state; the fourth code 0b11 never occurs (R43, spec/43_sm3.md R320). -/
inductive Sm3State where
  | idle
  | active
  | final
  deriving DecidableEq, Repr

/-- The fields of STATUS (R43); its reserved bits read 0 and hold nothing. -/
structure Status where
  busy   : Bool
  done   : Bool
  err    : Bool
  flag   : Bool
  sm3st  : Sm3State
  cmdovr : Bool
  wrbusy : Bool
  deriving DecidableEq, Repr

/-- The result codes of spec/60_exceptions.md R400. -/
inductive ResultCode where
  | ok
  | illegal
  | inv
  | inf
  | sm3State
  | sm3Len
  deriving DecidableEq, Repr

/-- One host access the bus delivers: its width in bits, its byte offset from BASE, and a write's data
(the data of a write that is not 32 bits wide is never used: spec/20_memory.md R81). -/
inductive Access where
  | read (width off : Nat)
  | write (width off : Nat) (data : Word)
  deriving DecidableEq, Repr

/-- One clock cycle to come (log 1, 2, 3). `reset` is a cycle with the hardware-reset input asserted.
In a running cycle `access` is the host access delivered in it, `lat` says that the running command's
latency LAT ends in it (it is not looked at while the block is idle), and `hostFirst` orders the access
and the completion where both fall in the cycle and the spec leaves the order open. -/
inductive Cycle where
  | reset
  | run (access : Option Access) (lat hostFirst : Bool)
  deriving DecidableEq, Repr

/-- A coordinate of a point register, numbered 0, 1, 2 in the window (R54). -/
inductive Coord where
  | x
  | y
  | z
  deriving DecidableEq, Repr

/-- What an aligned offset of the window addresses (R40). -/
inductive Loc where
  | id
  | ctrl
  | status
  | cmd
  | errcode
  | cmpres
  | sm3lenLo
  | sm3lenHi
  | enccnt
  | enctop
  | v (i : Fin 8)
  | msg (i : Fin 16)
  | enc (i : Fin 64)
  | big (r : Fin 16) (k : Fin 8)
  | point (r : Fin 8) (c : Coord) (k : Fin 8)
  | reserved
  deriving DecidableEq, Repr

/-- Why the machine stops. -/
inductive Fault where
  /-- Raised by the bus for a host access at an offset outside the 4 KiB window `[0x000, 0xFFF]`
  (spec/20_memory.md R80). No instruction raises it. Safe: the model stops where the platform would
  route the access elsewhere (log 10). -/
  | outsideWindow (off : Nat)
  /-- Raised by a command one of whose operands contains an UNINIT word: such a command has no defined
  result and "a model faults the command" (spec/60_exceptions.md R406, spec/10_state.md R31); of the
  treatments of spec/93_implementation_defined.md, entry I-11 gives it "fault (the model stops with an
  error)". Safe: the spec's own stop, which "errs toward unprovable" (R31). Which words are operands and
  where in the command it is raised: log 6. -/
  | uninitOperand
  deriving DecidableEq, Repr

/-- Why a command has no meaning. -/
inductive Refusal where
  /-- For an arm of `exec` that has no meaning yet; no arm raises it. Safe: the model stops. -/
  | notModelled (mnemonic : String)
  deriving DecidableEq, Repr

/-- The block. The fields down to `cmpres` are the spec's (R30); ID and IRQ are functions of them
(R41, spec/60_exceptions.md R410). The last four are the model's own (INVENTORY.md, State). -/
structure State where
  /-- B0..B15 (R32). -/
  b        : Vector BigCell 16
  /-- J0..J7 (R34). -/
  j        : Vector PointCell 8
  /-- V0..V7 (R50). -/
  v        : Vector WordCell 8
  /-- MSG0..MSG15 (R51). -/
  msg      : Vector WordCell 16
  /-- SM3LEN (R47). -/
  sm3len   : BitVec 64
  /-- ENCCNT (R48). -/
  enccnt   : BitVec 7
  /-- ENCTOP (R49). -/
  enctop   : BitVec 9
  /-- ENC0..ENC63 (R52). -/
  enc      : Vector Word 64
  /-- CTRL.IE (R42). -/
  ie       : Bool
  /-- STATUS (R43). -/
  status   : Status
  /-- CMD: the last accepted command word, the running one while BUSY (R44). -/
  cmd      : Word
  /-- ERRCODE[3:0] (R45). -/
  errcode  : BitVec 4
  /-- CMPRES (R46). -/
  cmpres   : Word
  /-- The data of the latest bus read response (log 8). -/
  readData : Word
  /-- The clock cycles still to come, first one first; after the last, cycles without an access in
  which a running command completes (log 1). -/
  schedule : List Cycle
  /-- How many events that are not reads have happened: what the free value of an UNINIT word is
  applied to (log 7). -/
  epoch    : Nat
  /-- How many open reads have happened: what the free value of an open read is applied to (log 7). -/
  draws    : Nat
  deriving DecidableEq, Repr

/-- Storage that nothing has written. The value 0 is the model's choice; no host read answers it and no
command computes on it (log 5). -/
def WordCell.uninit : WordCell := ⟨0#32, false⟩

/-- A 256-bit register no word of which has been written (log 5). -/
def BigCell.uninit : BigCell := ⟨0#256, 0#8⟩

/-- A point register no word of which has been written (log 5). -/
def PointCell.uninit : PointCell := ⟨.uninit, .uninit, .uninit⟩

/-- STATUS after either reset (R57). -/
def Status.reset : Status where
  busy   := false
  done   := false
  err    := false
  flag   := false
  sm3st  := .idle
  cmdovr := false
  wrbusy := false

/-- The block right after hardware reset (R57, spec/70_reset_and_hazards.md R450), with nothing
scheduled. -/
def State.reset : State where
  b        := Vector.replicate 16 .uninit
  j        := Vector.replicate 8 .uninit
  v        := Vector.replicate 8 .uninit
  msg      := Vector.replicate 16 .uninit
  sm3len   := 0#64
  enccnt   := 0#7
  enctop   := 0#9
  enc      := Vector.replicate 64 0#32
  ie       := false
  status   := .reset
  cmd      := 0#32
  errcode  := 0#4
  cmpres   := 0#32
  readData := 0#32
  schedule := []
  epoch    := 0
  draws    := 0

end Sys2Proof.Machine
end

