-- ==== Sys2Proof/Machine/Operands.lean ====
section
/-! DEFINITION. Reading operands: bignum registers, point registers, register pairs, the SM3 chaining
value and message buffer (spec/30_encoding.md R112, R116; spec/60_exceptions.md R403), and whether an
operand holds a word that nothing has written (spec/10_state.md R31). -/

namespace Sys2Proof.Machine

/-! ### Cells -/

/-- Every word of the register has been written since hardware reset (R31). -/
def BigCell.isWritten (c : BigCell) : Bool := c.written == 0xFF#8

/-- Every word of the point register has been written since hardware reset (R31). -/
def PointCell.isWritten (c : PointCell) : Bool := c.x.isWritten && c.y.isWritten && c.z.isWritten

/-- The point a point register holds. -/
def PointCell.value (c : PointCell) : Point := ⟨c.x.value, c.y.value, c.z.value⟩

/-! ### Fields -/

/-- The point register a J field names: `J[field[2:0]]` (R112). -/
def pointIndex (f : Field) : Fin 8 := ⟨f.val % 8, by omega⟩

/-- The second register of the pair a Bpair field names (R112, R116). -/
def pairNext (f : Field) : Field := f + 1

/-! ### Operands -/

/-- `B[f]` (R112). -/
def State.readB (s : State) (f : Field) : Bignum := s.b[f].value

/-- `J[f[2:0]]` (R112). -/
def State.readJ (s : State) (f : Field) : Point := s.j[pointIndex f].value

/-- V0..V7 (spec/10_state.md R37). -/
def State.readV (s : State) : Chain :=
  ⟨s.v[0].value, s.v[1].value, s.v[2].value, s.v[3].value, s.v[4].value, s.v[5].value, s.v[6].value,
   s.v[7].value⟩

/-- MSG0..MSG15 as a block (spec/43_sm3.md R307). -/
def State.readMsg (s : State) : List Word := (List.finRange 16).map fun i => s.msg[i].value

/-- The first `c` bytes of the message buffer (spec/43_sm3.md R324). -/
def State.readTail (s : State) (c : Nat) : List Byte := (s.readMsg.flatMap bytesOf).take c

/-! ### Whether an operand has an UNINIT word (spec/10_state.md R31) -/

/-- No word of `B[f]` is UNINIT. -/
def State.writtenB (s : State) (f : Field) : Bool := s.b[f].isWritten

/-- No word of `J[f[2:0]]` is UNINIT. -/
def State.writtenJ (s : State) (f : Field) : Bool := s.j[pointIndex f].isWritten

/-- No word of V0..V7 is UNINIT. -/
def State.writtenV (s : State) : Bool := (List.finRange 8).all fun i => s.v[i].written

/-- No word of the message buffer that holds one of its first `c` bytes is UNINIT: the other words are not
read (spec/43_sm3.md R324). -/
def State.writtenMsg (s : State) (c : Nat) : Bool :=
  (List.finRange 16).all fun i => decide (c ≤ 4 * i.val) || s.msg[i].written

end Sys2Proof.Machine
end

