-- ==== Sys2Proof/Machine/Ops.lean ====
section
/-! DEFINITION. The named operations on the state that the commands share: writing destinations, the
completion event, and completing with an error code, which is this block's one form of taking an
exception (spec/60_exceptions.md R400 to R412). -/

namespace Sys2Proof.Machine

/-- What every step and every meaning answers. -/
abbrev Result := Host.Outcome State Fault Refusal

/-! ### Destinations -/

/-- A register all of whose words have been written. -/
def BigCell.of (x : Bignum) : BigCell := ⟨x, 0xFF#8⟩

/-- A word that has been written. -/
def WordCell.of (w : Word) : WordCell := ⟨w, true⟩

/-- A point register all of whose words have been written. -/
def PointCell.of (q : Point) : PointCell := ⟨.of q.x, .of q.y, .of q.z⟩

/-- `B[f] <- x` (spec/00_scope.md R10). -/
def State.writeB (s : State) (f : Field) (x : Bignum) : State := { s with b := s.b.set f (.of x) }

/-- `B[f] <- x; B[f+1] <- y`, the pair of a Bpair field (spec/30_encoding.md R116). -/
def State.writePair (s : State) (f : Field) (xy : Bignum × Bignum) : State :=
  (s.writeB f xy.1).writeB (pairNext f) xy.2

/-- `J[f[2:0]] <- q` (spec/00_scope.md R10). -/
def State.writeJ (s : State) (f : Field) (q : Point) : State :=
  { s with j := s.j.set (pointIndex f) (.of q) }

/-- V0..V7 written with a chaining value. -/
def chainCells (c : Chain) : Vector WordCell 8 :=
  #v[.of c.a, .of c.b, .of c.c, .of c.d, .of c.e, .of c.f, .of c.g, .of c.h]

/-- V, SM3LEN and SM3ST written together (spec/43_sm3.md R321, R322, R324). -/
def State.writeSm3 (s : State) (v : Chain) (len : BitVec 64) (st : Sm3State) : State :=
  { s with v := chainCells v, sm3len := len, status := { s.status with sm3st := st } }

/-- `STATUS.FLAG <- x` (spec/40_field.md R164, R166). -/
def State.writeFlag (s : State) (x : Bool) : State := { s with status := { s.status with flag := x } }

/-- `CMPRES <- w` (spec/40_field.md R165). -/
def State.writeCmpres (s : State) (w : Word) : State := { s with cmpres := w }

/-- ENCCNT, ENCTOP and ENC[0..63] written together (spec/42_scalar.md R255). -/
def State.writeEnc (s : State) (cnt top : Nat) (entry : Nat → Word) : State :=
  { s with
    enccnt := BitVec.ofNat 7 cnt
    enctop := BitVec.ofNat 9 top
    enc := Vector.ofFn fun i : Fin 64 => entry i }

/-! ### Completion (spec/60_exceptions.md R400, R401) -/

/-- The number of a result code (R400). -/
def ResultCode.bits : ResultCode → BitVec 4
  | .ok => 0#4
  | .illegal => 1#4
  | .inv => 2#4
  | .inf => 3#4
  | .sm3State => 4#4
  | .sm3Len => 5#4

/-- The completion event's part that every command shares: ERRCODE, the sticky ERR, DONE and BUSY
(R401). -/
def State.finish (s : State) (c : ResultCode) : State :=
  { s with
    errcode := c.bits
    status := { s.status with err := s.status.err || c != .ok, done := true, busy := false } }

/-- Completion with success of a command whose destinations have been written in `s` (R401). -/
def succeed (s : State) : Result := .next (s.finish .ok)

/-- Completion with an error: the indicators change and nothing else does (R402, R411). -/
def raise (c : ResultCode) (s : State) : Result := .next (s.finish c)

/-- Completion of a command that answers the state with its destinations written, or an error code
(R401, R402). The block has no return from it: the host acknowledges by writing STATUS (R412). -/
def complete (r : Except ResultCode State) (s : State) : Result :=
  .next (match r with
    | .ok t => t.finish .ok
    | .error c => s.finish c)

/-- A command with operands: it runs when no word of them is UNINIT; else the spec has the model stop: "a
model faults the command before any of these checks" (spec/60_exceptions.md R406, spec/10_state.md R31,
spec/93_implementation_defined.md I-11). -/
def withOperands (written : Bool) (r : Result) : Result :=
  if written then r else .fault .uninitOperand

/-- The interrupt output: `CTRL.IE & STATUS.DONE` (R410). -/
def State.irq (s : State) : Bool := s.ie && s.status.done

/-- A second event after a first one of the same clock cycle. -/
def andThen (r : Result) (f : State → Result) : Result :=
  match r with
  | .next s => f s
  | .fault e => .fault e
  | .refused e => .refused e

end Sys2Proof.Machine
end

