-- ==== Sys2Proof/Machine/Bus.lean ====
section
/-! DEFINITION. The host's accesses to the register window, soft reset and hardware reset
(spec/10_state.md R40 to R57, spec/20_memory.md R80 to R92, spec/70_reset_and_hazards.md R450 to R462). -/

namespace Sys2Proof.Machine

/-! ### The register map (spec/10_state.md R40) -/

/-- The size of the window in bytes (R40, R80). -/
def windowSize : Nat := 0x1000

/-- The control registers and reserved offsets below the V region (R40). -/
def locateControl (off : Nat) : Loc :=
  if off = 0x000 then .id
  else if off = 0x004 then .ctrl
  else if off = 0x008 then .status
  else if off = 0x00C then .cmd
  else if off = 0x010 then .errcode
  else if off = 0x014 then .cmpres
  else if off = 0x018 then .sm3lenLo
  else if off = 0x01C then .sm3lenHi
  else if off = 0x020 then .enccnt
  else if off = 0x024 then .enctop
  else .reserved

/-- The coordinate of a number (R54). -/
def Coord.ofNumber (c : Nat) : Coord := if c = 0 then .x else if c = 1 then .y else .z

/-- What an aligned offset addresses (R40, R50 to R55). -/
def locate (off : Nat) : Loc :=
  if off < 0x040 then locateControl off
  else if off < 0x060 then .v (Fin.ofNat 8 ((off - 0x040) / 4))
  else if off < 0x080 then .reserved
  else if off < 0x0C0 then .msg (Fin.ofNat 16 ((off - 0x080) / 4))
  else if off < 0x100 then .reserved
  else if off < 0x200 then .enc (Fin.ofNat 64 ((off - 0x100) / 4))
  else if off < 0x400 then .reserved
  else if off < 0x600 then .big (Fin.ofNat 16 ((off - 0x400) / 32)) (Fin.ofNat 8 ((off - 0x400) / 4))
  else if off < 0x900 then
    .point (Fin.ofNat 8 ((off - 0x600) / 96)) (Coord.ofNumber ((off - 0x600) / 32 % 3))
      (Fin.ofNat 8 ((off - 0x600) / 4))
  else .reserved

/-- The data region: V, MSG, ENC, B and J (spec/20_memory.md R83). -/
def Loc.isData : Loc → Bool
  | .v _ => true
  | .msg _ => true
  | .enc _ => true
  | .big _ _ => true
  | .point _ _ _ => true
  | .id => false
  | .ctrl => false
  | .status => false
  | .cmd => false
  | .errcode => false
  | .cmpres => false
  | .sm3lenLo => false
  | .sm3lenHi => false
  | .enccnt => false
  | .enctop => false
  | .reserved => false

/-! ### Reads -/

/-- Offset of V_i (R50). -/
def offV (i : Nat) : Nat := 0x040 + 4 * i

/-- Offset of MSG_i (R51). -/
def offMsg (i : Nat) : Nat := 0x080 + 4 * i

/-- Offset of word 0 of B_r (R53). -/
def offB (r : Nat) : Nat := 0x400 + 32 * r

/-- The number of a coordinate in the window (R54). -/
def Coord.number : Coord → Nat
  | .x => 0
  | .y => 1
  | .z => 2

/-- Offset of word 0 of a coordinate of J_r (R54). -/
def offJ (r : Nat) (c : Coord) : Nat := 0x600 + 96 * r + 32 * c.number

/-- A coordinate of a point register. -/
def PointCell.coord (c : PointCell) : Coord → BigCell
  | .x => c.x
  | .y => c.y
  | .z => c.z

/-- The word at window offset `off` as the host reads it: its value, or a free value while UNINIT
(R31; log 7). -/
def WordCell.hostRead (c : WordCell) (epoch off : Nat) : Word :=
  if c.written then c.value else Config.uninitWord epoch off

/-- Word `k` of a 256-bit register whose word 0 is at offset `base`, as the host reads it (R31, R53;
log 7). -/
def BigCell.hostRead (c : BigCell) (epoch base k : Nat) : Word :=
  if c.written.getLsbD k then wordOf c.value k else Config.uninitWord epoch (base + 4 * k)

/-- The code of SM3ST (R43). -/
def Sm3State.bits : Sm3State → BitVec 2
  | .idle => 0b00#2
  | .active => 0b01#2
  | .final => 0b10#2

/-- The STATUS word (R43). -/
def Status.word (t : Status) : Word :=
  0#24 ++ BitVec.ofBool t.wrbusy ++ BitVec.ofBool t.cmdovr ++ t.sm3st.bits ++ BitVec.ofBool t.flag ++
    BitVec.ofBool t.err ++ BitVec.ofBool t.done ++ BitVec.ofBool t.busy

/-- The CTRL word: SRST reads 0 (R42). -/
def State.ctrlWord (s : State) : Word := 0#30 ++ BitVec.ofBool s.ie ++ 0#1

/-- The register at a location (R41 to R55); an UNINIT word reads as its free value (R31). -/
def State.regRead (s : State) : Loc → Word
  | .id => Config.id
  | .ctrl => s.ctrlWord
  | .status => s.status.word
  | .cmd => s.cmd
  | .errcode => s.errcode.setWidth 32
  | .cmpres => s.cmpres
  | .sm3lenLo => s.sm3len.extractLsb' 0 32
  | .sm3lenHi => s.sm3len.extractLsb' 32 32
  | .enccnt => s.enccnt.setWidth 32
  | .enctop => s.enctop.setWidth 32
  | .v i => s.v[i].hostRead s.epoch (offV i)
  | .msg i => s.msg[i].hostRead s.epoch (offMsg i)
  | .enc i => s.enc[i]
  | .big r k => s.b[r].hostRead s.epoch (offB r) k
  | .point r c k => (s.j[r].coord c).hostRead s.epoch (offJ r c) k
  | .reserved => 0#32

/-- The access is a 32-bit access at an aligned offset (spec/20_memory.md R81, R82). -/
def isAligned32 (width off : Nat) : Bool := width == 32 && off % 4 == 0

/-- A read whose value the spec leaves open answers a fresh free value (log 7). -/
def State.openRead (s : State) : State :=
  { s with readData := Config.openRead s.draws, draws := s.draws + 1 }

/-- `MMIORead` (spec/20_memory.md R81 to R83); no side effect on any register (R92). -/
def State.busRead (s : State) (width off : Nat) : State :=
  if isAligned32 width off then
    if (locate off).isData && s.status.busy then s.openRead
    else { s with readData := s.regRead (locate off) }
  else s.openRead

/-! ### Writes -/

/-- Soft reset: the control state as after hardware reset, data storage unchanged, a running command
abandoned (R57, spec/70_reset_and_hazards.md R452). -/
def State.softReset (s : State) : State :=
  { s with
    ie := false
    status := .reset
    cmd := 0#32
    errcode := 0#4
    cmpres := 0#32
    sm3len := 0#64
    enccnt := 0#7
    enctop := 0#9
    enc := Vector.replicate 64 0#32 }

/-- Hardware reset: State.reset, but for the model's own fields (spec/70_reset_and_hazards.md R450,
R451). -/
def State.hardwareReset (s : State) : State :=
  { State.reset with
    readData := s.readData
    schedule := s.schedule
    epoch := s.epoch
    draws := s.draws }

/-- A CTRL write: SRST first, the IE bit of the same write then discarded (R42). -/
def State.writeCtrl (s : State) (w : Word) : State :=
  if w.getLsbD 0 then s.softReset else { s with ie := w.getLsbD 1 }

/-- The W1C bits of STATUS that a written word clears (R43). -/
def Status.clear (t : Status) (w : Word) : Status :=
  { t with
    done := t.done && !w.getLsbD 1
    err := t.err && !w.getLsbD 2
    cmdovr := t.cmdovr && !w.getLsbD 6
    wrbusy := t.wrbusy && !w.getLsbD 7 }

/-- A CMD write: accepted while idle, else dropped with CMDOVR (R44). -/
def State.writeCmd (s : State) (w : Word) : State :=
  if s.status.busy then { s with status := { s.status with cmdovr := true } }
  else { s with cmd := w, status := { s.status with busy := true } }

/-- A register with its word `k` written by the host, the others kept (R53, R54). -/
def BigCell.hostWrite (c : BigCell) (k : Fin 8) (w : Word) : BigCell :=
  ⟨withWord c.value k w, c.written ||| (1#8 <<< k.val)⟩

/-- A point register with one word of one coordinate written by the host (R54). -/
def PointCell.hostWrite (q : PointCell) (c : Coord) (k : Fin 8) (w : Word) : PointCell :=
  match c with
  | .x => { q with x := q.x.hostWrite k w }
  | .y => { q with y := q.y.hostWrite k w }
  | .z => { q with z := q.z.hostWrite k w }

/-- A write of a data word while idle: MSG, B and J take it, V and ENC ignore it
(spec/20_memory.md R83, R84). -/
def State.writeData (s : State) (l : Loc) (w : Word) : State :=
  match l with
  | .msg i => { s with msg := s.msg.set i (.of w) }
  | .big r k => { s with b := s.b.set r (s.b[r].hostWrite k w) }
  | .point r c k => { s with j := s.j.set r (s.j[r].hostWrite c k w) }
  | .v _ => s
  | .enc _ => s
  | .id => s
  | .ctrl => s
  | .status => s
  | .cmd => s
  | .errcode => s
  | .cmpres => s
  | .sm3lenLo => s
  | .sm3lenHi => s
  | .enccnt => s
  | .enctop => s
  | .reserved => s

/-- `MMIOWrite` at a location (spec/20_memory.md R83). -/
def State.regWrite (s : State) (l : Loc) (w : Word) : State :=
  if l = .cmd then s.writeCmd w
  else if l = .ctrl then s.writeCtrl w
  else if l = .status then { s with status := s.status.clear w }
  else if l.isData then
    if s.status.busy then { s with status := { s.status with wrbusy := true } } else s.writeData l w
  else s

/-- A host write; another width or a misaligned one is ignored (spec/20_memory.md R81 to R83). -/
def State.busWrite (s : State) (width off : Nat) (w : Word) : State :=
  if isAligned32 width off then s.regWrite (locate off) w else s

/-- The offset of an access. -/
def Access.off : Access → Nat
  | .read _ off => off
  | .write _ off _ => off

/-- One host access as one event (spec/20_memory.md R90); outside the window the model faults (R80,
log 10). -/
def hostAccess (a : Access) (s : State) : Result :=
  if a.off < windowSize then
    .next (match a with
      | .read width off => s.busRead width off
      | .write width off w => s.busWrite width off w)
  else .fault (.outsideWindow a.off)

end Sys2Proof.Machine
end

