-- ==== Sys2Proof/Machine/Constants.lean ====
section
/-! DEFINITION. The numeric constants fixed in the block (spec/00_scope.md R13 to R17,
spec/43_sm3.md R300, R301). The spec supplies them from general knowledge and the model takes the
rules' values (log 16). -/

namespace Sys2Proof.Machine

/-- The SM2 prime (R13). -/
def p : Nat := 0xFFFFFFFEFFFFFFFFFFFFFFFFFFFFFFFFFFFFFFFF00000000FFFFFFFFFFFFFFFF

/-- `2^256 - p` (R13). -/
def negP : Nat := 0x0000000100000000000000000000000000000000FFFFFFFF0000000000000001

/-- The SM2 group order (R14). -/
def n : Nat := 0xFFFFFFFEFFFFFFFFFFFFFFFFFFFFFFFF7203DF6B21C6052B53BBF40939D54123

/-- `2^256 - n` (R14). -/
def negN : Nat := 0x000000010000000000000000000000008DFC2094DE39FAD4AC440BF6C62ABEDD

/-- The curve coefficient `a = p - 3` (R15). -/
def curveA : Bignum := 0xFFFFFFFEFFFFFFFFFFFFFFFFFFFFFFFFFFFFFFFF00000000FFFFFFFFFFFFFFFC#256

/-- The curve coefficient `b` (R15). -/
def curveB : Bignum := 0x28E9FA9E9D9F5E344D5A9E4BCF6509A7F39789F515AB8F92DDBCBD414D940E93#256

/-- The generator's x (R16). -/
def gx : Bignum := 0x32C4AE2C1F1981195F9904466A39C9948FE30BBFF2660BE1715A4589334C74C7#256

/-- The generator's y (R16). -/
def gy : Bignum := 0xBC3736A2F4F6779C59BDCEE36B692153D0A9877CC62A474002DF32E52139F0A0#256

/-- The SM3 initial value (R300). -/
def sm3Iv : Chain :=
  ⟨0x7380166F#32, 0x4914B2B9#32, 0x172442D7#32, 0xDA8A0600#32,
   0xA96F30BC#32, 0x163138AA#32, 0xE38DEE4D#32, 0xB0FB0E4E#32⟩

/-- The round constant `T_j` (R301). -/
def sm3T (j : Nat) : Word := if j < 16 then 0x79CC4519#32 else 0x7A879D8A#32

end Sys2Proof.Machine
end

