-- ==== Sys2Proof/Machine/FieldUnit.lean ====
section
/-! DEFINITION. The value functions of the field-reduction unit (spec/00_scope.md R11,
spec/40_field.md R150 to R167): every result is the exact residue, computed without wrap-around and
canonical. -/

namespace Sys2Proof.Machine

/-- The residue of a natural number mod p as a bignum (R167). -/
def reduceP (x : Nat) : Bignum := BitVec.ofNat 256 (x % p)

/-- The residue of a natural number mod n as a bignum (R167). -/
def reduceN (x : Nat) : Bignum := BitVec.ofNat 256 (x % n)

/-- `(a + b) mod p` (R150). -/
def addp (a b : Bignum) : Bignum := reduceP (a.toNat + b.toNat)

/-- `(a - b) mod p`, the mathematical remainder also for `a < b` (R152). -/
def subp (a b : Bignum) : Bignum := BitVec.ofNat 256 (((a.toNat : Int) - b.toNat) % p).toNat

/-- `(a * b) mod p`, from the exact 512-bit product (R154). -/
def mulp (a b : Bignum) : Bignum := reduceP (a.toNat * b.toNat)

/-- `(a * a) mod p` (R156). -/
def sqrp (a : Bignum) : Bignum := reduceP (a.toNat * a.toNat)

/-- `(hi * 2^256 + lo) mod p` (R157). -/
def modp (lo hi : Bignum) : Bignum := reduceP (hi.toNat * 2 ^ 256 + lo.toNat)

/-- Whether the operand is 0 mod p, so that it has no inverse (R160). -/
def isZeroP (a : Bignum) : Bool := a.toNat % p == 0

/-- The extended Euclidean algorithm on remainders `r0, r1` and coefficients `t0, t1`: both pairs keep
`r ≡ t * a (mod p)`, so at `r1 = 0` the coefficient `t0` is the inverse of `a` if `r0 = 1`. At most
`fuel` divisions are done. -/
def euclid : (fuel r0 r1 : Nat) → (t0 t1 : Int) → Int
  | 0, _, _, t0, _ => t0
  | fuel + 1, r0, r1, t0, t1 =>
    if r1 = 0 then t0 else euclid fuel r1 (r0 % r1) t1 (t0 - (r0 / r1 : Nat) * t1)

/-- The `x` in `[1, p)` with `(a * x) mod p = 1`, for an `a` that is not 0 mod p (R160; log 17). A
division of 256-bit numbers at least halves a remainder every second time, so 512 divisions suffice. -/
def inverseP (a : Bignum) : Bignum := BitVec.ofNat 256 (euclid 512 p (a.toNat % p) 0 1 % p).toNat

/-- `invp(a)`, or `E_INV` when `a mod p = 0` (R11, R160). -/
def invp (a : Bignum) : Except ResultCode Bignum :=
  if isZeroP a then .error .inv else .ok (inverseP a)

/-- `(a + b) mod n` (R162). -/
def addn (a b : Bignum) : Bignum := reduceN (a.toNat + b.toNat)

end Sys2Proof.Machine
end

