-- ==== Sys2Proof/Machine/Flags.lean ====
section
/-! DEFINITION. The result indicators the commands compute: STATUS.FLAG and CMPRES
(spec/10_state.md R46, R56; spec/40_field.md R164 to R166). -/

namespace Sys2Proof.Machine

/-- CHKN's FLAG: `0 < a < n` (R164). -/
def inDomainN (a : Bignum) : Bool := decide (0 < a.toNat ∧ a.toNat < n)

/-- ISVAL's FLAG: `a != 0` (R166). -/
def isValid (a : Bignum) : Bool := decide (a.toNat ≠ 0)

/-- CMP's result: -1, 0 or +1 as a 32-bit two's-complement word (R46, R165). -/
def compare (a b : Bignum) : Word :=
  if a.toNat < b.toNat then 0xFFFFFFFF#32 else if a.toNat = b.toNat then 0x00000000#32 else 0x00000001#32

end Sys2Proof.Machine
end

