-- ==== Sys2Proof/Machine/FieldOps.lean ====
section
/-! DEFINITION. The meanings of the field unit's commands (spec/40_field.md R150 to R166). -/

namespace Sys2Proof.Machine

/-- ADDP (R150). -/
def execAddp (rd rs1 rs2 : Field) (s : State) : Result :=
  withOperands (s.writtenB rs1 && s.writtenB rs2)
    (succeed (s.writeB rd (addp (s.readB rs1) (s.readB rs2))))

/-- SUBP (R152). -/
def execSubp (rd rs1 rs2 : Field) (s : State) : Result :=
  withOperands (s.writtenB rs1 && s.writtenB rs2)
    (succeed (s.writeB rd (subp (s.readB rs1) (s.readB rs2))))

/-- MULP (R154). -/
def execMulp (rd rs1 rs2 : Field) (s : State) : Result :=
  withOperands (s.writtenB rs1 && s.writtenB rs2)
    (succeed (s.writeB rd (mulp (s.readB rs1) (s.readB rs2))))

/-- SQRP (R156). -/
def execSqrp (rd rs1 : Field) (s : State) : Result :=
  withOperands (s.writtenB rs1)
    (succeed (s.writeB rd (sqrp (s.readB rs1))))

/-- MODP: RS1 is the low half, RS2 the high half (R157). -/
def execModp (rd rs1 rs2 : Field) (s : State) : Result :=
  withOperands (s.writtenB rs1 && s.writtenB rs2)
    (succeed (s.writeB rd (modp (s.readB rs1) (s.readB rs2))))

/-- INVP: `E_INV` when the operand is 0 mod p (R160). -/
def execInvp (rd rs1 : Field) (s : State) : Result :=
  withOperands (s.writtenB rs1)
    (complete ((invp (s.readB rs1)).map (s.writeB rd)) s)

/-- ADDN (R162). -/
def execAddn (rd rs1 rs2 : Field) (s : State) : Result :=
  withOperands (s.writtenB rs1 && s.writtenB rs2)
    (succeed (s.writeB rd (addn (s.readB rs1) (s.readB rs2))))

/-- CHKN (R164). -/
def execChkn (rs1 : Field) (s : State) : Result :=
  withOperands (s.writtenB rs1)
    (succeed (s.writeFlag (inDomainN (s.readB rs1))))

/-- CMP (R165). -/
def execCmp (rs1 rs2 : Field) (s : State) : Result :=
  withOperands (s.writtenB rs1 && s.writtenB rs2)
    (succeed (s.writeCmpres (compare (s.readB rs1) (s.readB rs2))))

/-- ISVAL (R166). -/
def execIsval (rs1 : Field) (s : State) : Result :=
  withOperands (s.writtenB rs1)
    (succeed (s.writeFlag (isValid (s.readB rs1))))

end Sys2Proof.Machine
end

