-- ==== Sys2Proof/Machine/PointUnit.lean ====
section
/-! DEFINITION. The value functions of the point doubler, the point adder and the affine converter
(spec/41_point.md R200 to R212). No function checks that a point is on the curve (R212). -/

namespace Sys2Proof.Machine

/-- The small integer constants of the formulas as field operands (spec/00_scope.md R11). -/
def small (k : Nat) : Bignum := BitVec.ofNat 256 k

/-- A triple with `Z = 0`; its `X` and `Y` are never observed where it is used (spec/42_scalar.md R265,
log 15). -/
def infinity : Point := ⟨0#256, 0#256, 0#256⟩

/-- `M = 3 X^2 + a Z^4` of the doubling formula (R201). -/
def dblM (q : Point) : Bignum :=
  addp (mulp (small 3) (sqrp q.x)) (mulp curveA (sqrp (sqrp q.z)))

/-- `S = 4 X Y^2` of the doubling formula (R201). -/
def dblS (q : Point) : Bignum := mulp (small 4) (mulp q.x (sqrp q.y))

/-- The doubling formula for `Z != 0` (R201). -/
def dbl (q : Point) : Point :=
  let x3 := subp (sqrp (dblM q)) (addp (dblS q) (dblS q))
  { x := x3
    y := subp (mulp (dblM q) (subp (dblS q) x3)) (mulp (small 8) (sqrp (sqrp q.y)))
    z := mulp (small 2) (mulp q.y q.z) }

/-- Point doubling; infinity is copied unchanged (R200, R202). -/
def pdblValue (q : Point) : Point := if q.z = 0#256 then q else dbl q

/-- `U1 = X1 Z2^2`; `addU q1 q2` is `U1` and `addU q2 q1` is `U2` (R204). -/
def addU (q1 q2 : Point) : Bignum := mulp q1.x (sqrp q2.z)

/-- `S1 = Y1 Z2^3`; `addS q1 q2` is `S1` and `addS q2 q1` is `S2` (R204). -/
def addS (q1 q2 : Point) : Bignum := mulp q1.y (mulp q2.z (sqrp q2.z))

/-- `H = U2 - U1` (R204). -/
def addH (q1 q2 : Point) : Bignum := subp (addU q2 q1) (addU q1 q2)

/-- `R = S2 - S1` (R204). -/
def addR (q1 q2 : Point) : Bignum := subp (addS q2 q1) (addS q1 q2)

/-- The addition formula for `Z1 != 0` and `Z2 != 0` (R204). It detects neither equal nor opposite
points (R205). -/
def addFormula (q1 q2 : Point) : Point :=
  let h := addH q1 q2
  let r := addR q1 q2
  let h2 := sqrp h
  let h3 := mulp h h2
  let u1h2 := mulp (addU q1 q2) h2
  let x3 := subp (subp (sqrp r) h3) (addp u1h2 u1h2)
  { x := x3
    y := subp (mulp r (subp u1h2 x3)) (mulp (addS q1 q2) h3)
    z := mulp (mulp q1.z q2.z) h }

/-- Point addition; an infinite operand gives a copy of the other one, the first test winning (R203). -/
def paddValue (q1 q2 : Point) : Point :=
  if q1.z = 0#256 then q2 else if q2.z = 0#256 then q1 else addFormula q1 q2

/-- Point negation: Y becomes `(0 - Y) mod p`, X and Z are kept (R206, R207). -/
def pnegValue (q : Point) : Point := ⟨q.x, subp (small 0) q.y, q.z⟩

/-- The affine lift `(x, y, 1)`, bit for bit (R208, R209). -/
def tojcbValue (x y : Bignum) : Point := ⟨x, y, small 1⟩

/-- The affine projection `(X / Z^2, Y / Z^3)`: `E_INF` when `Z = 0`, checked first, then `E_INV` when
`Z mod p = 0` (R210, R211). -/
def toaffValue (q : Point) : Except ResultCode (Bignum × Bignum) :=
  if q.z = 0#256 then .error .inf
  else
    match invp q.z with
    | .error c => .error c
    | .ok zi => .ok (mulp q.x (sqrp zi), mulp q.y (mulp (sqrp zi) zi))

end Sys2Proof.Machine
end

