-- ==== Sys2Proof/Machine/PointOps.lean ====
section
/-! DEFINITION. The meanings of the point unit's commands (spec/41_point.md R200 to R211). -/

namespace Sys2Proof.Machine

/-- PDBL (R200). -/
def execPdbl (rd rs1 : Field) (s : State) : Result :=
  withOperands (s.writtenJ rs1)
    (succeed (s.writeJ rd (pdblValue (s.readJ rs1))))

/-- PADD (R203). -/
def execPadd (rd rs1 rs2 : Field) (s : State) : Result :=
  withOperands (s.writtenJ rs1 && s.writtenJ rs2)
    (succeed (s.writeJ rd (paddValue (s.readJ rs1) (s.readJ rs2))))

/-- PNEG (R206). -/
def execPneg (rd rs1 : Field) (s : State) : Result :=
  withOperands (s.writtenJ rs1)
    (succeed (s.writeJ rd (pnegValue (s.readJ rs1))))

/-- TOJCB (R208). -/
def execTojcb (rd rs1 rs2 : Field) (s : State) : Result :=
  withOperands (s.writtenB rs1 && s.writtenB rs2)
    (succeed (s.writeJ rd (tojcbValue (s.readB rs1) (s.readB rs2))))

/-- TOAFF: `E_INF`, then `E_INV` (R210, R211). -/
def execToaff (rd rs1 : Field) (s : State) : Result :=
  withOperands (s.writtenJ rs1)
    (complete ((toaffValue (s.readJ rs1)).map (s.writePair rd)) s)

end Sys2Proof.Machine
end

