-- ==== Sys2Proof/Machine/ScalarUnit.lean ====
section
/-! DEFINITION. The signed sliding-window encoder, the precomputed table and the double-scalar
multiplier as value functions (spec/42_scalar.md R250 to R269). -/

namespace Sys2Proof.Machine

/-- The 5-bit window of `k` at `pos` plus the carry; bits at 256 and above read 0 (R250). -/
def window (k : Bignum) (pos : Nat) (carry : Bool) : Nat := k.toNat / 2 ^ pos % 32 + carry.toNat

/-- The scan of R250 from `pos` with `carry`, at most `fuel` turns of its loop. -/
def scan (k : Bignum) : (fuel pos : Nat) → (carry : Bool) → List Digit
  | 0, _, _ => []
  | fuel + 1, pos, carry =>
    if pos < 256 ∨ carry = true then
      if k.getLsbD pos = carry then scan k fuel (pos + 1) carry
      else if window k pos carry > 16 then
        ⟨(window k pos carry : Int) - 32, pos⟩ :: scan k fuel (pos + 5) true
      else ⟨window k pos carry, pos⟩ :: scan k fuel (pos + 5) false
    else []

/-- The encoding of a 256-bit scalar (R250). Each turn advances the position, and at or past position
256 a pending carry is flushed in one turn, so 257 turns end the scan. -/
def encodeScalar (k : Bignum) : List Digit := scan k 257 0 false

/-- The table index of a digit (R252). -/
def tableIndex (d : Int) : Nat := if 0 < d then ((d - 1) / 2).toNat else 8 + ((-d - 1) / 2).toNat

/-- The odd multiples `t, t + d, ...`, each addition with the accumulated entry first (R253). -/
def oddMultiples : Nat → Point → Point → List Point
  | 0, t, _ => [t]
  | k + 1, t, d => t :: oddMultiples k (paddValue t d) d

/-- The 16-entry table `1P, 3P, .., 15P, -1P, .., -15P` of an affine point (R253, R254). -/
def pretable (x y : Bignum) : List Point :=
  let t0 := tojcbValue x y
  let odd := oddMultiples 7 t0 (pdblValue t0)
  odd ++ odd.map pnegValue

/-- The digit an encoding schedules at position `i` (R265). -/
def digitAt (e : List Digit) (i : Nat) : Option Int := (e.find? fun d => d.shift == i).map (·.code)

/-- The accumulator after the addition that an encoding schedules at position `i`, if any (R265). -/
def addDigit (e : List Digit) (t : List Point) (i : Nat) (q : Point) : Point :=
  match digitAt e i with
  | none => q
  | some d => paddValue q (t.getD (tableIndex d) infinity)

/-- The combination schedule from position `i` down to 0, over any doubling and any addition of what is
scheduled at a position: a doubling after every position except position 0 (R265, R266). -/
def combineWith {α : Type} (double : α → α) (addAt : Nat → α → α) : Nat → α → α
  | 0, q => addAt 0 q
  | i + 1, q => combineWith double addAt i (double (addAt (i + 1) q))

/-- The schedule on points: at a position the G entry is added first, then the P entry (R265, R266). -/
def combine (e1 e2 : List Digit) (tg tp : List Point) (top : Nat) (q : Point) : Point :=
  combineWith pdblValue (fun i r => addDigit e2 tp i (addDigit e1 tg i r)) top q

/-- The largest `shift_bit` of a list of digits, 0 for none (R265). -/
def topShift (e : List Digit) : Nat := e.foldl (fun m d => max m d.shift) 0

/-- The accumulator at the end of the schedule; with both encodings empty it never leaves infinity
(R265). -/
def dsmAccumulator (k1 k2 px py : Bignum) : Point :=
  let e1 := encodeScalar k1
  let e2 := encodeScalar k2
  combine e1 e2 (pretable gx gy) (pretable px py) (topShift (e1 ++ e2)) infinity

/-- `k1 * G + k2 * P` in affine form, `E_INF` when the accumulator ends at infinity (R265, R267). -/
def dsmValue (k1 k2 px py : Bignum) : Except ResultCode (Bignum × Bignum) :=
  toaffValue (dsmAccumulator k1 k2 px py)

/-- ENCTOP: the position of the highest digit, 0 for none (spec/10_state.md R49, R255, R256). -/
def startingBit (e : List Digit) : Nat := (e.getLast?.map (·.shift)).getD 0

/-- The ENC word of a digit: `shift_bit << 16 | code_num mod 2^8` (spec/10_state.md R52, R255). -/
def digitWord (d : Digit) : Word := (BitVec.ofNat 32 d.shift <<< 16) ||| (BitVec.ofInt 8 d.code).setWidth 32

/-- ENC entry `i`: the word of digit `i`, 0 past the last one (R255). -/
def encEntry (e : List Digit) (i : Nat) : Word := (e[i]?.map digitWord).getD 0#32

end Sys2Proof.Machine
end

