-- ==== Sys2Proof/Machine/ScalarOps.lean ====
section
/-! DEFINITION. The meanings of SENC and DSM (spec/42_scalar.md R255, R262, R265). -/

namespace Sys2Proof.Machine

/-- SENC (R255). -/
def execSenc (rs1 : Field) (s : State) : Result :=
  let e := encodeScalar (s.readB rs1)
  withOperands (s.writtenB rs1) (succeed (s.writeEnc e.length (startingBit e) (encEntry e)))

/-- DSM: `k1 = B[RS1]`, `k2 = B[RS2]`, `P = (B[RS3], B[RS3+1])`; the ENC registers are neither read nor
written (R262, R265). -/
def execDsm (rd rs1 rs2 rs3 : Field) (s : State) : Result :=
  withOperands (s.writtenB rs1 && s.writtenB rs2 && s.writtenB rs3 && s.writtenB (pairNext rs3))
    (complete ((dsmValue (s.readB rs1) (s.readB rs2) (s.readB rs3) (s.readB (pairNext rs3))).map
      (s.writePair rd)) s)

end Sys2Proof.Machine
end

