-- ==== Sys2Proof/Machine/Sm3Unit.lean ====
section
/-! DEFINITION. The SM3 compression function and the padder as value functions
(spec/43_sm3.md R300 to R311). -/

namespace Sys2Proof.Machine

/-- The pre-rotated round constant `K_j = T_j <<< (j mod 32)` (R301). -/
def sm3K (j : Nat) : Word := (sm3T j).rotateLeft (j % 32)

/-- FF0 for rounds 0..15, FF1 (majority) for rounds 16..63 (R302). -/
def sm3FF (j : Nat) (x y z : Word) : Word :=
  if j < 16 then x ^^^ y ^^^ z else (x &&& y) ||| (x &&& z) ||| (y &&& z)

/-- GG0 for rounds 0..15, GG1 (choice) for rounds 16..63 (R303). -/
def sm3GG (j : Nat) (x y z : Word) : Word :=
  if j < 16 then x ^^^ y ^^^ z else (x &&& y) ||| (~~~x &&& z)

/-- The permutation P0 (R304). -/
def sm3P0 (x : Word) : Word := x ^^^ x.rotateLeft 9 ^^^ x.rotateLeft 17

/-- The permutation P1 (R304). -/
def sm3P1 (x : Word) : Word := x ^^^ x.rotateLeft 15 ^^^ x.rotateLeft 23

/-- The recurrence of the message expansion for word `j = w.length`, from the words before it (R307). -/
def expandWord (w : List Word) : Word :=
  let j := w.length
  sm3P1 (w.getD (j - 16) 0 ^^^ w.getD (j - 9) 0 ^^^ (w.getD (j - 3) 0).rotateLeft 15) ^^^
    (w.getD (j - 13) 0).rotateLeft 7 ^^^ w.getD (j - 6) 0

/-- `k` more words of the message expansion (R307). -/
def expandMore : Nat → List Word → List Word
  | 0, w => w
  | k + 1, w => expandMore k (w ++ [expandWord w])

/-- The 68 expanded words of a 16-word block (R307). -/
def expand (block : List Word) : List Word := expandMore 52 block

/-- One compression round on words `W_j` and `W'_j`; all right-hand sides use the state before the
round (R308). -/
def sm3Round (j : Nat) (w w' : Word) (s : Chain) : Chain :=
  let ss1 := (s.a.rotateLeft 12 + s.e + sm3K j).rotateLeft 7
  let ss2 := ss1 ^^^ s.a.rotateLeft 12
  let tt1 := sm3FF j s.a s.b s.c + s.d + ss2 + w'
  let tt2 := sm3GG j s.e s.f s.g + s.h + ss1 + w
  { a := tt1
    b := s.a
    c := s.b.rotateLeft 9
    d := s.c
    e := sm3P0 tt2
    f := s.e
    g := s.f.rotateLeft 19
    h := s.g }

/-- Rounds `j, j + 1, ..`, `k` of them, on the expanded words; `W'_j = W_j ^ W_{j+4}` (R307, R308). -/
def sm3Rounds (w : List Word) : (k j : Nat) → Chain → Chain
  | 0, _, s => s
  | k + 1, j, s =>
    sm3Rounds w k (j + 1) (sm3Round j (w.getD j 0) (w.getD j 0 ^^^ w.getD (j + 4) 0) s)

/-- Word-by-word exclusive or of chaining values (R309). -/
def xorChain (s t : Chain) : Chain :=
  ⟨s.a ^^^ t.a, s.b ^^^ t.b, s.c ^^^ t.c, s.d ^^^ t.d,
   s.e ^^^ t.e, s.f ^^^ t.f, s.g ^^^ t.g, s.h ^^^ t.h⟩

/-- The compression function `CF(V, block)` (R309). -/
def compress (v : Chain) (block : List Word) : Chain := xorChain v (sm3Rounds (expand block) 64 0 v)

/-- The message bit length as the padding carries it, `(8 * total) mod 2^64` (R311). -/
def bitLength (total : Nat) : BitVec 64 := BitVec.ofNat 64 (8 * total)

/-- The one or two padding blocks, as bytes (R310). -/
def padBytes (tail : List Byte) (total : Nat) : List (List Byte) :=
  let c := tail.length
  if c ≤ 55 then
    [tail ++ [0x80#8] ++ List.replicate (55 - c) 0#8 ++ beBytes64 (bitLength total)]
  else
    [tail ++ [0x80#8] ++ List.replicate (63 - c) 0#8,
     List.replicate 56 0#8 ++ beBytes64 (bitLength total)]

/-- The padding blocks as blocks of sixteen big-endian words (R307, R310). -/
def pad (tail : List Byte) (total : Nat) : List (List Word) := (padBytes tail total).map beWords

/-- The chaining value after compressing the padding blocks in order (R324). -/
def compressPadding (v : Chain) (tail : List Byte) (total : Nat) : Chain :=
  (pad tail total).foldl compress v

/-- The new byte total would not fit in 64 bits (R323). -/
def lengthOverflows (len : BitVec 64) (bytes : Nat) : Bool := decide (2 ^ 64 - 1 < len.toNat + bytes)

end Sys2Proof.Machine
end

