-- ==== Sys2Proof/Machine/Sm3Ops.lean ====
section
/-! DEFINITION. The meanings of the SM3 commands and of NOP (spec/43_sm3.md R320 to R340). -/

namespace Sys2Proof.Machine

/-- SM3BLK and SM3FIN on the first `bytes` bytes of the buffer, with `t` the state their destinations are
written in. The context must be ACTIVE, which needs no operand (R320, spec/70_reset_and_hazards.md R453);
then V and the buffer words read must hold no UNINIT word (log 6); then the byte counter must take `bytes`
more (R323, spec/60_exceptions.md R406). -/
def sm3Command (bytes : Nat) (t s : State) : Result :=
  if s.status.sm3st ≠ .active then raise .sm3State s
  else
    withOperands (s.writtenV && s.writtenMsg bytes)
      (if lengthOverflows s.sm3len bytes then raise .sm3Len s else succeed t)

/-- NOP (R340). -/
def execNop (s : State) : Result := succeed s

/-- SM3INIT (R321). -/
def execSm3init (s : State) : Result := succeed (s.writeSm3 sm3Iv 0#64 .active)

/-- SM3BLK (R322). -/
def execSm3blk (s : State) : Result :=
  sm3Command 64 (s.writeSm3 (compress s.readV s.readMsg) (s.sm3len + 64#64) s.status.sm3st) s

/-- SM3FIN: `imm` is the number of valid bytes in the buffer (R324). -/
def execSm3fin (imm : Fin 64) (s : State) : Result :=
  sm3Command imm
    (s.writeSm3 (compressPadding s.readV (s.readTail imm) (s.sm3len.toNat + imm))
      (s.sm3len + BitVec.ofNat 64 imm) .final) s

end Sys2Proof.Machine
end

