-- ==== Sys2Proof/Machine/Dispatch.lean ====
section
/-! DEFINITION. One arm per command: the completion event of the command (spec/60_exceptions.md R401). -/

namespace Sys2Proof.Machine

/-- The completion of command `i` in state `s`. -/
def exec (i : Instr) (s : State) : Host.Outcome State Fault Refusal :=
  match i with
  | .nop => Sys2Proof.Machine.execNop s
  | .addp rd rs1 rs2 => Sys2Proof.Machine.execAddp rd rs1 rs2 s
  | .subp rd rs1 rs2 => Sys2Proof.Machine.execSubp rd rs1 rs2 s
  | .mulp rd rs1 rs2 => Sys2Proof.Machine.execMulp rd rs1 rs2 s
  | .sqrp rd rs1 => Sys2Proof.Machine.execSqrp rd rs1 s
  | .modp rd rs1 rs2 => Sys2Proof.Machine.execModp rd rs1 rs2 s
  | .invp rd rs1 => Sys2Proof.Machine.execInvp rd rs1 s
  | .addn rd rs1 rs2 => Sys2Proof.Machine.execAddn rd rs1 rs2 s
  | .chkn rs1 => Sys2Proof.Machine.execChkn rs1 s
  | .cmp rs1 rs2 => Sys2Proof.Machine.execCmp rs1 rs2 s
  | .isval rs1 => Sys2Proof.Machine.execIsval rs1 s
  | .pdbl rd rs1 => Sys2Proof.Machine.execPdbl rd rs1 s
  | .padd rd rs1 rs2 => Sys2Proof.Machine.execPadd rd rs1 rs2 s
  | .pneg rd rs1 => Sys2Proof.Machine.execPneg rd rs1 s
  | .tojcb rd rs1 rs2 => Sys2Proof.Machine.execTojcb rd rs1 rs2 s
  | .toaff rd rs1 => Sys2Proof.Machine.execToaff rd rs1 s
  | .senc rs1 => Sys2Proof.Machine.execSenc rs1 s
  | .dsm rd rs1 rs2 rs3 => Sys2Proof.Machine.execDsm rd rs1 rs2 rs3 s
  | .sm3init => Sys2Proof.Machine.execSm3init s
  | .sm3blk => Sys2Proof.Machine.execSm3blk s
  | .sm3fin imm => Sys2Proof.Machine.execSm3fin imm s

end Sys2Proof.Machine
end

