-- ==== Sys2Proof/Machine/Cycle.lean ====
section
/-! DEFINITION. One clock cycle: the host's access, the completion of the running command, and their
order (spec/20_memory.md R90, R94; spec/60_exceptions.md R401, R407; spec/70_reset_and_hazards.md R451,
R470). -/

namespace Sys2Proof.Machine

/-- The completion of the running command: the word in CMD decoded and run, or `E_ILLEGAL`
(spec/30_encoding.md R117, spec/60_exceptions.md R401). -/
def completion (s : State) : Result :=
  match decode s.cmd with
  | .ok i => exec i s
  | .error _ => raise .illegal s

/-- A write that clears STATUS bits (spec/60_exceptions.md R407). -/
def Access.isStatusWrite : Access → Bool
  | .read _ _ => false
  | .write width off _ => width == 32 && off == 0x008

/-- A write that performs a soft reset (spec/10_state.md R42). -/
def Access.isSoftReset : Access → Bool
  | .read _ _ => false
  | .write width off w => width == 32 && off == 0x004 && w.getLsbD 0

/-- A host write that is an event: an aligned 32-bit one. A write of another width or a misaligned one is
ignored and is no event (spec/20_memory.md R81, R82, R90). -/
def Access.isWriteEvent : Access → Bool
  | .read _ _ => false
  | .write width off _ => isAligned32 width off

/-- Whether the access comes before the completion of the same cycle: a STATUS write does, a soft reset
does not, and for every other access the schedule says (spec/60_exceptions.md R407, log 3). -/
def accessFirst (a : Access) (hostFirst : Bool) : Bool :=
  if a.isStatusWrite then true else if a.isSoftReset then false else hostFirst

/-- The events of one cycle. A command accepted in a cycle does not complete in it, since LAT is at
least 1 (spec/70_reset_and_hazards.md R470). -/
def runCycle (c : Cycle) (s : State) : Result :=
  match c with
  | .reset => .next s.hardwareReset
  | .run none lat _ => if s.status.busy && lat then completion s else .next s
  | .run (some a) lat hostFirst =>
    if s.status.busy && lat then
      if accessFirst a hostFirst then andThen (hostAccess a s) completion
      else andThen (completion s) (hostAccess a)
    else hostAccess a s

/-- The cycle that comes next: the schedule's first, or, past its end, one without an access in which a
running command completes (log 1). -/
def State.nextCycle (s : State) : Cycle := s.schedule.headD (.run none true false)

/-- The next cycle holds an event that is not a read. -/
def State.hasEvent (s : State) : Bool :=
  match s.nextCycle with
  | .reset => true
  | .run a lat _ => (s.status.busy && lat) || a.any Access.isWriteEvent

/-- The state a cycle runs in: the schedule moved on, and the epoch when the cycle holds an event that
is not a read (log 7). -/
def State.advance (s : State) : State :=
  { s with
    schedule := s.schedule.tail
    epoch := if s.hasEvent then s.epoch + 1 else s.epoch }

/-- The state with command word `w` accepted and its latency ending in the next cycle. -/
def State.accepted (s : State) (w : Word) : State :=
  { s with
    cmd := w
    status := { s.status with busy := true }
    schedule := .run none true false :: s.schedule }

end Sys2Proof.Machine
end

