-- ==== Sys2Proof/Machine/Step.lean ====
section
/-! DEFINITION. One step of the machine is one clock cycle. -/

namespace Sys2Proof.Machine

/-- One clock cycle (log 1). -/
def step (s : State) : Host.Outcome State Fault Refusal := runCycle s.nextCycle s.advance

/-- The state in which the word `w` of a table row has just been accepted into CMD, so that the very
next step completes it (log 4). -/
def State.withFetchWord (s : State) (nbits w : Nat) : State :=
  s.accepted (BitVec.ofNat 32 (w % 2 ^ nbits))

end Sys2Proof.Machine
end

