-- ==== Sys2Proof/Machine/Datapath.lean ====
section
/-! DEFINITION. The reference datapaths that the spec describes beside the field unit's commands
(spec/40_field.md R151, R153, R155, R158, R161, R163; informative there: only the values of the command
rules are architectural). They stand beside the value functions of FieldUnit.lean, which the commands
use; each `while` loop is a recursion on the number of turns it may take. -/

namespace Sys2Proof.Machine

/-- `while s >= 2^256: s <- (s mod 2^256) + neg`, at most `turns` turns (R151, R163). -/
def foldCarry (neg : Nat) : (turns s : Nat) → Nat
  | 0, s => s
  | turns + 1, s => if 2 ^ 256 ≤ s then foldCarry neg turns (s % 2 ^ 256 + neg) else s

/-- `if s >= m: s <- s - m` (R151, R153, R158, R163). -/
def subtractOnce (m s : Nat) : Nat := if m ≤ s then s - m else s

/-- The ADDP datapath; "the loop runs at most twice" (R151). -/
def addpDatapath (a b : Bignum) : Nat := subtractOnce p (foldCarry negP 2 (a.toNat + b.toNat))

/-- The ADDN datapath: at most two corrections (R163). -/
def addnDatapath (a b : Bignum) : Nat := subtractOnce n (foldCarry negN 2 (a.toNat + b.toNat))

/-- `while d < 0: d <- d + p`, at most `turns` turns (R153). -/
def addBack : (turns : Nat) → (d : Int) → Int
  | 0, d => d
  | turns + 1, d => if d < 0 then addBack turns (d + p) else d

/-- The SUBP datapath; the loop runs at most twice (R153). -/
def subpDatapath (a b : Bignum) : Nat := subtractOnce p (addBack 2 (a.toNat - b.toNat)).toNat

/-- Limb `k` of a bignum: bits `[64k+63 : 64k]` (spec/10_state.md R33). -/
def limb (a : Bignum) (k : Nat) : Nat := (a.extractLsb' (64 * k) 64).toNat

/-- The schoolbook product of 4 x 4 limbs (R155). -/
def schoolbook (a b : Bignum) : Nat :=
  ((List.range 4).map fun i => ((List.range 4).map fun j => limb a i * limb b j * 2 ^ (64 * (i + j))).sum).sum

/-- One pass of the special-form reduction: `l + h 2^224 + h 2^96 - h 2^64 + h` (R158). -/
def foldPass (v : Nat) : Nat :=
  let h := v / 2 ^ 256
  let l := v % 2 ^ 256
  l + h * 2 ^ 224 + h * 2 ^ 96 - h * 2 ^ 64 + h

/-- `while v >= 2^256`, at most `passes` passes (R158). -/
def foldPasses : (passes v : Nat) → Nat
  | 0, v => v
  | passes + 1, v => if 2 ^ 256 ≤ v then foldPasses passes (foldPass v) else v

/-- The MODP datapath on a 512-bit value; sixteen passes are more than enough (R158). -/
def modpDatapath (v : Nat) : Nat := subtractOnce p (foldPasses 16 v)

/-- The MULP and SQRP datapath: the schoolbook product, then the reduction (R155). -/
def mulpDatapath (a b : Bignum) : Nat := modpDatapath (schoolbook a b)

/-- `while u even: u <- u/2; x <- (x even) ? x/2 : (x + p)/2`, at most `turns` turns (R161). -/
def halve : (turns u x : Nat) → Nat × Nat
  | 0, u, x => (u, x)
  | turns + 1, u, x =>
    if u % 2 = 0 then halve turns (u / 2) (if x % 2 = 0 then x / 2 else (x + p) / 2) else (u, x)

/-- `x - y mod p` on residues (R161). -/
def subResidue (x y : Nat) : Nat := ((x : Int) - y) % p |>.toNat

/-- The outer loop of the binary inversion on `(u, v, x1, x2)`, at most `turns` turns (R161). -/
def kaliskiLoop : (turns u v x1 x2 : Nat) → Nat
  | 0, u, _, x1, x2 => if u = 1 then x1 % p else x2 % p
  | turns + 1, u, v, x1, x2 =>
    if u ≠ 1 ∧ v ≠ 1 then
      let (u', x1') := halve 256 u x1
      let (v', x2') := halve 256 v x2
      if v' ≤ u' then kaliskiLoop turns (u' - v') v' (subResidue x1' x2') x2'
      else kaliskiLoop turns u' (v' - u') x1' (subResidue x2' x1')
    else if u = 1 then x1 % p
    else x2 % p

/-- The INVP datapath, for an operand that is not 0 mod p (R161). -/
def kaliski (a : Bignum) : Nat := kaliskiLoop 512 a.toNat p 1 0

end Sys2Proof.Machine
end

