-- ==== Sys2Proof/Safety.lean ====
section
/-! DEFINITION. What holds in every run, and the terms in which statements say what a command changes
and what it leaves. -/

namespace Sys2Proof.Machine

/-- The command word of `i` has these fields at the positions of spec/30_encoding.md R111, R114. -/
def HasWord (i : Instr) (op rd rs1 rs2 rs3 imm : Nat) : Prop :=
  (encode i).toNat = op + rd * 2 ^ 8 + rs1 * 2 ^ 12 + rs2 * 2 ^ 16 + rs3 * 2 ^ 20 + imm * 2 ^ 24

/-- No operand of `i` contains an UNINIT word (spec/10_state.md R31). NOP and SM3INIT have no operand, and
SM3BLK and SM3FIN read none unless the context is ACTIVE (spec/43_sm3.md R320,
spec/70_reset_and_hazards.md R453). -/
def operandsWritten (i : Instr) (s : State) : Bool :=
  match i with
  | .nop => true
  | .addp _ rs1 rs2 => s.writtenB rs1 && s.writtenB rs2
  | .subp _ rs1 rs2 => s.writtenB rs1 && s.writtenB rs2
  | .mulp _ rs1 rs2 => s.writtenB rs1 && s.writtenB rs2
  | .sqrp _ rs1 => s.writtenB rs1
  | .modp _ rs1 rs2 => s.writtenB rs1 && s.writtenB rs2
  | .invp _ rs1 => s.writtenB rs1
  | .addn _ rs1 rs2 => s.writtenB rs1 && s.writtenB rs2
  | .chkn rs1 => s.writtenB rs1
  | .cmp rs1 rs2 => s.writtenB rs1 && s.writtenB rs2
  | .isval rs1 => s.writtenB rs1
  | .pdbl _ rs1 => s.writtenJ rs1
  | .padd _ rs1 rs2 => s.writtenJ rs1 && s.writtenJ rs2
  | .pneg _ rs1 => s.writtenJ rs1
  | .tojcb _ rs1 rs2 => s.writtenB rs1 && s.writtenB rs2
  | .toaff _ rs1 => s.writtenJ rs1
  | .senc rs1 => s.writtenB rs1
  | .dsm _ rs1 rs2 rs3 => s.writtenB rs1 && s.writtenB rs2 && s.writtenB rs3 && s.writtenB (pairNext rs3)
  | .sm3init => true
  | .sm3blk => s.status.sm3st != .active || s.writtenV && s.writtenMsg 64
  | .sm3fin imm => s.status.sm3st != .active || s.writtenV && s.writtenMsg imm

/-! ### What a completion leaves unchanged (spec/60_exceptions.md R401, R402) -/

/-- B0..B15 are unchanged, values and UNINIT marks. -/
def SameBig (s t : State) : Prop := t.b = s.b

/-- J0..J7 are unchanged. -/
def SamePoints (s t : State) : Prop := t.j = s.j

/-- V0..V7, SM3LEN and SM3ST are unchanged. -/
def SameSm3 (s t : State) : Prop :=
  t.v = s.v ∧ t.sm3len = s.sm3len ∧ t.status.sm3st = s.status.sm3st

/-- ENCCNT, ENCTOP and ENC0..63 are unchanged. -/
def SameEnc (s t : State) : Prop := t.enccnt = s.enccnt ∧ t.enctop = s.enctop ∧ t.enc = s.enc

/-- STATUS.FLAG is unchanged. -/
def SameFlag (s t : State) : Prop := t.status.flag = s.status.flag

/-- CMPRES is unchanged. -/
def SameCmpres (s t : State) : Prop := t.cmpres = s.cmpres

/-- What no command changes: MSG, CTRL.IE, CMD, CMDOVR, WRBUSY, and the model's own fields. -/
def SameHostSide (s t : State) : Prop :=
  t.msg = s.msg ∧ t.ie = s.ie ∧ t.cmd = s.cmd ∧ t.status.cmdovr = s.status.cmdovr ∧
    t.status.wrbusy = s.status.wrbusy ∧ t.readData = s.readData ∧ t.schedule = s.schedule ∧
    t.epoch = s.epoch ∧ t.draws = s.draws

/-- The indicators of a completion with code `code`: ERRCODE, the sticky ERR, DONE and BUSY (R401). -/
def Completes (s t : State) (code : BitVec 4) : Prop :=
  t.errcode = code ∧ t.status.err = (s.status.err || code != 0#4) ∧ t.status.done = true ∧
    t.status.busy = false

/-- A successful completion that changes no destination but bignum registers. -/
def OnlyBigChanges (s t : State) : Prop :=
  SamePoints s t ∧ SameSm3 s t ∧ SameEnc s t ∧ SameFlag s t ∧ SameCmpres s t ∧ SameHostSide s t ∧
    Completes s t 0#4

/-- A successful completion that writes the integer `x` to `B[d]` and changes no other destination. -/
def WritesBig (s t : State) (d : Field) (x : Nat) : Prop :=
  t.b[d].value.toNat = x ∧ t.b[d].isWritten = true ∧ (∀ r : Field, r ≠ d → t.b[r] = s.b[r]) ∧
    OnlyBigChanges s t

/-- A successful completion that writes `x` to `B[d]` and `y` to `B[d+1]` for an even `d`, and changes
no other destination. -/
def WritesPair (s t : State) (d : Field) (x y : Nat) : Prop :=
  t.b[d].value.toNat = x ∧ t.b[d].isWritten = true ∧
    t.b[pairNext d].value.toNat = y ∧ t.b[pairNext d].isWritten = true ∧
    (∀ r : Field, r ≠ d → r ≠ pairNext d → t.b[r] = s.b[r]) ∧ OnlyBigChanges s t

/-- A successful completion that writes a point with the integers `x`, `y`, `z` to the point register
that `d` names and changes no other destination. -/
def WritesPoint (s t : State) (d : Field) (x y z : Nat) : Prop :=
  t.j[pointIndex d].x.value.toNat = x ∧ t.j[pointIndex d].y.value.toNat = y ∧
    t.j[pointIndex d].z.value.toNat = z ∧ t.j[pointIndex d].isWritten = true ∧
    (∀ r : Fin 8, r ≠ pointIndex d → t.j[r] = s.j[r]) ∧
    SameBig s t ∧ SameSm3 s t ∧ SameEnc s t ∧ SameFlag s t ∧ SameCmpres s t ∧ SameHostSide s t ∧
    Completes s t 0#4

/-- A successful completion that changes only the SM3 context. -/
def OnlySm3Changes (s t : State) : Prop :=
  SameBig s t ∧ SamePoints s t ∧ SameEnc s t ∧ SameFlag s t ∧ SameCmpres s t ∧ SameHostSide s t ∧
    Completes s t 0#4

/-- A successful completion that changes only STATUS.FLAG. -/
def OnlyFlagChanges (s t : State) : Prop :=
  SameBig s t ∧ SamePoints s t ∧ SameSm3 s t ∧ SameEnc s t ∧ SameCmpres s t ∧ SameHostSide s t ∧
    Completes s t 0#4

/-- A successful completion that changes only CMPRES. -/
def OnlyCmpresChanges (s t : State) : Prop :=
  SameBig s t ∧ SamePoints s t ∧ SameSm3 s t ∧ SameEnc s t ∧ SameFlag s t ∧ SameHostSide s t ∧
    Completes s t 0#4

/-- A successful completion that changes only the encoder result registers. -/
def OnlyEncChanges (s t : State) : Prop :=
  SameBig s t ∧ SamePoints s t ∧ SameSm3 s t ∧ SameFlag s t ∧ SameCmpres s t ∧ SameHostSide s t ∧
    Completes s t 0#4

/-- V0..V7 hold the words of `c`, all written. -/
def HoldsChain (t : State) (c : Chain) : Prop :=
  t.v.toList = [c.a, c.b, c.c, c.d, c.e, c.f, c.g, c.h].map fun w => ⟨w, true⟩

/-- A completion with an error: nothing but the indicators changes (R402). -/
def OnlyIndicatorsChange (s t : State) (code : BitVec 4) : Prop :=
  SameBig s t ∧ SamePoints s t ∧ SameSm3 s t ∧ SameEnc s t ∧ SameFlag s t ∧ SameCmpres s t ∧
    SameHostSide s t ∧ Completes s t code

/-! ### The data region of the window (spec/20_memory.md R83) -/

/-- An offset of a V or ENC word: read-only data (R84). -/
def IsReadOnlyData (off : Nat) : Prop := 0x040 ≤ off ∧ off < 0x060 ∨ 0x100 ≤ off ∧ off < 0x200

/-- An offset of a MSG, B or J word: data the host may write. -/
def IsWritableData (off : Nat) : Prop := 0x080 ≤ off ∧ off < 0x0C0 ∨ 0x400 ≤ off ∧ off < 0x900

/-- An offset of a read-only control register: ID, ERRCODE, CMPRES, SM3LEN, ENCCNT, ENCTOP
(spec/10_state.md R40). -/
def IsReadOnlyControl (off : Nat) : Prop :=
  off ∈ [0x000, 0x010, 0x014, 0x018, 0x01C, 0x020, 0x024]

/-- A reserved offset (spec/10_state.md R40, R55). -/
def IsReserved (off : Nat) : Prop :=
  0x028 ≤ off ∧ off < 0x040 ∨ 0x060 ≤ off ∧ off < 0x080 ∨ 0x0C0 ≤ off ∧ off < 0x100 ∨
    0x200 ≤ off ∧ off < 0x400 ∨ 0x900 ≤ off ∧ off < 0x1000

/-- The host's eight writes of a whole bignum, least-significant word first (spec/10_state.md R53). -/
def writeBignum (r : Field) (x : Bignum) (s : State) : Result :=
  (List.range 8).foldl (fun st k => andThen st (hostAccess (.write 32 (offB r + 4 * k) (wordOf x k))))
    (.next s)

/-! ### The schedule of DSM (spec/42_scalar.md R265, R266) -/

/-- `top` is the largest position of a digit of `e`, 0 for none (R265). -/
def IsTopPosition (e : List Digit) (top : Nat) : Prop :=
  (∀ d ∈ e, d.shift ≤ top) ∧ (top = 0 ∨ ∃ d ∈ e, d.shift = top)

/-- The accumulator of DSM at every position `i` from `top` down to 0, as R265 and R266 give it: `before i`
when the loop comes to the position, `mid i` after the G entry and `after i` after the P entry that the
encodings schedule there. A doubling leads from each position to the next lower one. -/
structure FollowsSchedule (e1 e2 : List Digit) (tg tp : List Point) (top : Nat)
    (before mid after : Nat → Point) : Prop where
  start  : before top = infinity
  double : ∀ i, i < top → before i = pdblValue (after (i + 1))
  addG   : ∀ d ∈ e1, mid d.shift = paddValue (before d.shift) (tg.getD (tableIndex d.code) infinity)
  keepG  : ∀ i, i ≤ top → (∀ d ∈ e1, d.shift ≠ i) → mid i = before i
  addP   : ∀ d ∈ e2, after d.shift = paddValue (mid d.shift) (tp.getD (tableIndex d.code) infinity)
  keepP  : ∀ i, i ≤ top → (∀ d ∈ e2, d.shift ≠ i) → after i = mid i

/-- An addition meets equal points: both are finite, H = 0 and R = 0 (spec/41_point.md R205,
spec/42_scalar.md R268). -/
def MeetsEqual (q r : Point) : Prop :=
  q.z ≠ 0#256 ∧ r.z ≠ 0#256 ∧ addH q r = 0#256 ∧ addR q r = 0#256

/-- No addition that builds the table of `(x, y)` meets equal points (spec/42_scalar.md R253, R268). -/
def TableAvoidsEqual (x y : Bignum) : Prop :=
  ∀ k, 1 ≤ k → k < 8 →
    ¬ MeetsEqual ((pretable x y).getD (k - 1) infinity) (pdblValue ⟨x, y, 1#256⟩)

/-- No addition of the schedule meets equal points (spec/42_scalar.md R268, R269). -/
def ScheduleAvoidsEqual (e1 e2 : List Digit) (tg tp : List Point) (before mid : Nat → Point) : Prop :=
  (∀ d ∈ e1, ¬ MeetsEqual (before d.shift) (tg.getD (tableIndex d.code) infinity)) ∧
    ∀ d ∈ e2, ¬ MeetsEqual (mid d.shift) (tp.getD (tableIndex d.code) infinity)

/-- `val` maps the points of `good` to a group so that every triple with `Z = 0` is zero, and doubling,
negation and every addition that does not meet equal points are those of the group. On SM2 `good` holds
the points of the curve and `val` is their affine point. -/
structure FollowsGroup {A : Type} [AddCommGroup A] (good : Point → Prop) (val : Point → A) : Prop where
  infinity : ∀ q, q.z = 0#256 → good q ∧ val q = 0
  double   : ∀ q, good q → good (pdblValue q) ∧ val (pdblValue q) = val q + val q
  negate   : ∀ q, good q → good (pnegValue q) ∧ val (pnegValue q) = -val q
  add      : ∀ q r, good q → good r → ¬ MeetsEqual q r →
    good (paddValue q r) ∧ val (paddValue q r) = val q + val r

/-! ### The control state after a reset (spec/10_state.md R57) -/

/-- Every control register holds its reset value and IRQ is 0. -/
def ControlIsReset (t : State) : Prop :=
  t.ie = false ∧ t.status.busy = false ∧ t.status.done = false ∧ t.status.err = false ∧
    t.status.flag = false ∧ t.status.sm3st = .idle ∧ t.status.cmdovr = false ∧
    t.status.wrbusy = false ∧ t.cmd = 0#32 ∧ t.errcode = 0#4 ∧ t.cmpres = 0#32 ∧ t.sm3len = 0#64 ∧
    t.enccnt = 0#7 ∧ t.enctop = 0#9 ∧ (∀ i : Fin 64, t.enc[i] = 0#32) ∧ t.irq = false

/-- Every word of the data storage is UNINIT. -/
def StorageIsUninit (t : State) : Prop :=
  (∀ r : Fin 16, t.b[r].written = 0#8) ∧
    (∀ r : Fin 8, t.j[r].x.written = 0#8 ∧ t.j[r].y.written = 0#8 ∧ t.j[r].z.written = 0#8) ∧
    (∀ i : Fin 8, t.v[i].written = false) ∧ (∀ i : Fin 16, t.msg[i].written = false)

/-! ### The invariant of every run -/

/-- The digit field `shift_bit` of an ENC word (spec/10_state.md R52). -/
def encShift (w : Word) : Nat := (w.extractLsb' 16 9).toNat

/-- The digit field `code_num` of an ENC word, 8-bit two's complement (spec/10_state.md R52). -/
def encCode (w : Word) : Int := (w.extractLsb' 0 8).toInt

/-- An ENC word that holds a digit: an odd code in [-15, 15], a position in [0, 256], the other bits 0
(spec/10_state.md R52, spec/42_scalar.md R251). -/
def IsDigitWord (w : Word) : Prop :=
  encCode w % 2 = 1 ∧ -15 ≤ encCode w ∧ encCode w ≤ 15 ∧ encShift w ≤ 256 ∧
    w.extractLsb' 8 8 = 0#8 ∧ w.extractLsb' 25 7 = 0#7

/-- The encoder result registers hold an encoding (spec/10_state.md R36, R48, R49, R52;
spec/42_scalar.md R251). -/
structure EncInv (s : State) : Prop where
  count   : s.enccnt.toNat ≤ 52
  digits  : ∀ i : Fin 64, i.val < s.enccnt.toNat → IsDigitWord s.enc[i]
  unused  : ∀ i : Fin 64, s.enccnt.toNat ≤ i.val → s.enc[i] = 0#32
  spacing : ∀ i j : Fin 64, j.val = i.val + 1 → j.val < s.enccnt.toNat →
    encShift s.enc[i] + 5 ≤ encShift s.enc[j]
  top     : ∀ i : Fin 64, s.enccnt.toNat = i.val + 1 → s.enctop.toNat = encShift s.enc[i]
  empty   : s.enccnt = 0#7 → s.enctop = 0#9

/-- What every step keeps: CMPRES is -1, 0 or +1 (spec/10_state.md R46), ERRCODE is a code of
spec/60_exceptions.md R400, the encoder registers hold an encoding, the SM3 length is 0 while no hash
was started since reset, and a started context has no UNINIT chaining word (spec/43_sm3.md R320, R321). -/
structure State.Inv (s : State) : Prop where
  cmpres  : s.cmpres = 0xFFFFFFFF#32 ∨ s.cmpres = 0#32 ∨ s.cmpres = 1#32
  errcode : s.errcode.toNat ≤ 5
  enc     : EncInv s
  idle    : s.status.sm3st = .idle → s.sm3len = 0#64
  chain   : s.status.sm3st ≠ .idle → ∀ i : Fin 8, s.v[i].written = true

end Sys2Proof.Machine
end

