-- ==== Sys2Proof/Certificates/Slice0/Obligations.lean ====
section
/-! DEFINITION. The statements for the provers. -/

open Sys2Proof Sys2Proof.Machine

/-! ### Encoding (spec/30_encoding.md) -/

/-- R122: the example words and the illegal example words. -/
def Obligations.DecodesExampleWords : Prop :=
  decode 0x00000001#32 = .ok .nop ∧
  decode 0x00021310#32 = .ok (.addp 3 1 2) ∧
  decode 0x00054014#32 = .ok (.modp 0 4 5) ∧
  decode 0x00007715#32 = .ok (.invp 7 7) ∧
  decode 0x0002101A#32 = .ok (.cmp 1 2) ∧
  decode 0x00010221#32 = .ok (.padd 2 0 1) ∧
  decode 0x00010023#32 = .ok (.tojcb 0 0 1) ∧
  decode 0x00003624#32 = .ok (.toaff 6 3) ∧
  decode 0x00432031#32 = .ok (.dsm 0 2 3 4) ∧
  decode 0x03000042#32 = .ok (.sm3fin 3) ∧
  decode 0x3F000042#32 = .ok (.sm3fin 63) ∧
  decode 0x00000000#32 = .error .reservedOpcode ∧
  decode 0x40000001#32 = .error .reservedBits ∧
  decode 0x00000821#32 = .error .pointField ∧
  decode 0x00001124#32 = .error .oddPair ∧
  decode 0x01000040#32 = .error .unusedField

/-- R111 to R115: decoding the word of a well-formed instruction gives the instruction back. -/
def Obligations.DecodeOfEncodeIsIdentity : Prop :=
  ∀ i : Instr, i.wellFormed = true → decode (encode i) = .ok i

/-- R112 to R114: a decoded instruction is well formed and its word is the word decoded. -/
def Obligations.EncodeOfDecodeIsIdentity : Prop :=
  ∀ (w : Word) (i : Instr), decode w = .ok i → i.wellFormed = true ∧ encode i = w

/-- R119: every word selects exactly one row of the opcode table, that of the instruction decoded, or
no row and is illegal. -/
def Obligations.DecodeAgreesWithOpcodeTable : Prop :=
  ∀ w : Word,
    (∀ i, decode w = .ok i →
      ∃ r ∈ opcodeTable, r.op = i.op ∧ r.selects w = true ∧
        ∀ r' ∈ opcodeTable, r'.selects w = true → r' = r) ∧
    ((∃ e, decode w = .error e) ↔ ∀ r ∈ opcodeTable, r.selects w = false)

/-! ### Steps, acceptance and completion -/

/-- R44, R90, R401: while BUSY, a cycle without an access in which the latency ends runs the decoded
command, on the state with the cycle taken off the schedule and the epoch moved on (log 1, 7); the word
that `withFetchWord` places is the one the next step runs (log 4). -/
def Obligations.StepCompletesDecodedCommand : Prop :=
  (∀ (s : State) (i : Instr), s.status.busy = true → decode s.cmd = .ok i →
    (s.schedule = [] ∨ ∃ hf rest, s.schedule = .run none true hf :: rest) →
    step s = exec i { s with schedule := s.schedule.tail, epoch := s.epoch + 1 }) ∧
  (∀ (s : State) (w : Nat) (i : Instr), w < 2 ^ 32 → decodeTableWord 32 w = some i →
    step (s.withFetchWord 32 w) =
      exec i { s with
        cmd := BitVec.ofNat 32 w
        status := { s.status with busy := true }
        epoch := s.epoch + 1 })

/-- R117: an illegal word in CMD completes with E_ILLEGAL and changes nothing else. -/
def Obligations.IllegalWordChangesOnlyIndicators : Prop :=
  ∀ (s : State) (e : Illegal), s.status.busy = true → decode s.cmd = .error e →
    (s.schedule = [] ∨ ∃ hf rest, s.schedule = .run none true hf :: rest) →
    ∃ t, step s = .next t ∧ OnlyIndicatorsChange s.advance t 1#4

/-- R44: a CMD write is accepted while idle and starts the command the word encodes, and is dropped with
CMDOVR while BUSY; a read returns the last accepted word; the reset value is 0. -/
def Obligations.CmdRegisterAcceptsWhileIdle : Prop :=
  (∀ (s : State) (w : Word), s.status.busy = false →
    hostAccess (.write 32 0x00C w) s =
      .next { s with cmd := w, status := { s.status with busy := true } }) ∧
  (∀ (s : State) (w : Word), s.status.busy = true →
    hostAccess (.write 32 0x00C w) s = .next { s with status := { s.status with cmdovr := true } }) ∧
  (∀ (s : State) (w : Word) (i : Instr), s.status.busy = false → decode w = .ok i →
    completion { s with cmd := w, status := { s.status with busy := true } } =
      exec i { s with cmd := w, status := { s.status with busy := true } }) ∧
  (∀ s : State, hostAccess (.read 32 0x00C) s = .next { s with readData := s.cmd }) ∧
  State.reset.cmd = 0#32

/-- R470: whatever the number of cycles a command stays busy, its result is the same. The epoch is the
model's own count of events (log 7). -/
def Obligations.LatencyDoesNotChangeTheResult : Prop :=
  ∀ (s : State) (w : Word) (k : Nat) (lat hf : Bool) (rest : List Cycle), s.status.busy = false →
    s.schedule = .run (some (.write 32 0x00C w)) lat hf ::
      (List.replicate k (.run none false false) ++ .run none true false :: rest) →
    Host.Core.run Sys2Proof.core (k + 2) s =
      completion { s with
        cmd := w
        status := { s.status with busy := true }
        schedule := rest
        epoch := s.epoch + 2 }

/-- R401, R410: every command's completion sets DONE, clears BUSY, makes ERR sticky and raises IRQ when
enabled. -/
def Obligations.CompletionSetsIndicators : Prop :=
  ∀ (i : Instr) (s t : State), exec i s = .next t →
    t.status.done = true ∧ t.status.busy = false ∧
      t.status.err = (s.status.err || t.errcode != 0#4) ∧ t.irq = s.ie

/-- R402: no write on error, whether the word is legal or not. -/
def Obligations.FailingCommandWritesNothing : Prop :=
  (∀ (i : Instr) (s t : State), exec i s = .next t → t.errcode ≠ 0#4 →
    OnlyIndicatorsChange s t t.errcode) ∧
  ∀ s t : State, completion s = .next t → t.errcode ≠ 0#4 → OnlyIndicatorsChange s t t.errcode

/-- R400, R404, R267: which legal commands can fail, and with which codes. -/
def Obligations.OnlyNamedCommandsFail : Prop :=
  ∀ (i : Instr) (s t : State), exec i s = .next t → t.errcode ≠ 0#4 →
    (t.errcode = 2#4 ∧ ((∃ d a, i = .invp d a) ∨ ∃ d a, i = .toaff d a)) ∨
    (t.errcode = 3#4 ∧ ((∃ d a, i = .toaff d a) ∨ ∃ d a b c, i = .dsm d a b c)) ∨
    ((t.errcode = 4#4 ∨ t.errcode = 5#4) ∧ (i = .sm3blk ∨ ∃ c, i = .sm3fin c))

/-- R325, R403, R416: no command changes MSG, CTRL.IE, CMD, CMDOVR or WRBUSY (nor the model's own
fields). -/
def Obligations.NoCommandTouchesHostSide : Prop :=
  ∀ (i : Instr) (s t : State), exec i s = .next t → SameHostSide s t

/-- R32, R34, R36, R37, R50, R56, R321, R322, R324: which commands can change B, J, V, SM3LEN, SM3ST, the ENC
registers, CMPRES and FLAG. -/
def Obligations.DestinationsHaveNamedWriters : Prop :=
  ∀ (i : Instr) (s t : State), exec i s = .next t →
    (t.status.flag ≠ s.status.flag → ∃ a, i = .chkn a ∨ i = .isval a) ∧
    (t.cmpres ≠ s.cmpres → ∃ a b, i = .cmp a b) ∧
    (¬ SameEnc s t → ∃ a, i = .senc a) ∧
    (¬ (t.v = s.v ∧ t.sm3len = s.sm3len) → i = .sm3init ∨ i = .sm3blk ∨ ∃ c, i = .sm3fin c) ∧
    (t.status.sm3st ≠ s.status.sm3st → i = .sm3init ∨ ∃ c, i = .sm3fin c) ∧
    (t.j ≠ s.j → (∃ d a, i = .pdbl d a) ∨ (∃ d a b, i = .padd d a b) ∨ (∃ d a, i = .pneg d a) ∨
      ∃ d a b, i = .tojcb d a b) ∧
    (t.b ≠ s.b → i.op ∈ [Op.addp, .subp, .mulp, .sqrp, .modp, .invp, .addn, .toaff, .dsm])

/-- R407: in one cycle a STATUS write comes before the completion, so DONE and ERR end set, and a soft
reset comes after it and clears its effects; that the data storage is what the completion left is read from
R452. The cycle and its schedule are the model's (log 1, 3). -/
def Obligations.CompletionOrderWithinOneCycle : Prop :=
  (∀ (s : State) (w : Word) (hf : Bool) (rest : List Cycle), s.status.busy = true →
    (∀ i, decode s.cmd = .ok i → operandsWritten i s = true) →
    s.schedule = .run (some (.write 32 0x008 w)) true hf :: rest →
    ∃ t, step s = .next t ∧ t.status.done = true ∧ t.status.busy = false ∧
      (t.errcode ≠ 0#4 → t.status.err = true)) ∧
  (∀ (s : State) (w : Word) (hf : Bool) (rest : List Cycle), s.status.busy = true →
    (∀ i, decode s.cmd = .ok i → operandsWritten i s = true) →
    w.getLsbD 0 = true → s.schedule = .run (some (.write 32 0x004 w)) true hf :: rest →
    ∃ t u, completion s.advance = .next u ∧ step s = .next t ∧ ControlIsReset t ∧
      t.b = u.b ∧ t.j = u.j ∧ t.v = u.v ∧ t.msg = u.msg)

/-! ### The window -/

/-- R83, R84, R462: while BUSY a write to a data word is dropped and sets WRBUSY; while idle a write to
a V or ENC word is ignored. The last line of R83 and R41, R45 to R49, R55: a write to a read-only control
register or a reserved offset is ignored, busy or idle. -/
def Obligations.DroppedAndIgnoredDataWrites : Prop :=
  ∀ (s : State) (off : Nat) (w : Word), off % 4 = 0 →
    (s.status.busy = true → IsReadOnlyData off ∨ IsWritableData off →
      hostAccess (.write 32 off w) s = .next { s with status := { s.status with wrbusy := true } }) ∧
    (s.status.busy = false → IsReadOnlyData off → hostAccess (.write 32 off w) s = .next s) ∧
    (IsReadOnlyControl off ∨ IsReserved off → hostAccess (.write 32 off w) s = .next s)

/-- R91, R403, R461, R462: while BUSY no access but a soft reset changes an operand, a result, the
running command or BUSY. -/
def Obligations.BusyAccessesKeepTheCommand : Prop :=
  ∀ (a : Access) (s t : State), s.status.busy = true → a.isSoftReset = false →
    hostAccess a s = .next t →
    SameBig s t ∧ SamePoints s t ∧ SameSm3 s t ∧ SameEnc s t ∧ SameFlag s t ∧ SameCmpres s t ∧
      t.msg = s.msg ∧ t.cmd = s.cmd ∧ t.errcode = s.errcode ∧ t.status.busy = true

/-- R92: a read changes nothing but the response, and reading a register twice with no event between
gives the same value unless it is a data word while BUSY. A write of another width or a misaligned one
between two reads is no event (R81, R82, R90); the cycles of that clause are the model's (log 1), and that
an UNINIT word keeps its free value across them is what log 7 makes of R92. -/
def Obligations.ReadsHaveNoSideEffect : Prop :=
  (∀ (width off : Nat) (s t : State), hostAccess (.read width off) s = .next t →
    t = { s with readData := t.readData, draws := t.draws } ∧
    (width = 32 → off % 4 = 0 → ¬ (s.status.busy = true ∧ (locate off).isData = true) →
      hostAccess (.read width off) t = .next t)) ∧
  ∀ (s t u v : State) (off width off' : Nat) (w : Word) (l1 h1 l2 h2 l3 h3 : Bool) (rest : List Cycle),
    s.status.busy = false → off % 4 = 0 → (width ≠ 32 ∨ off' % 4 ≠ 0) →
    s.schedule = .run (some (.read 32 off)) l1 h1 :: .run (some (.write width off' w)) l2 h2 ::
      .run (some (.read 32 off)) l3 h3 :: rest →
    step s = .next t → step t = .next u → step u = .next v → v.readData = t.readData

/-- R81, R82: a write of another width or a misaligned one is ignored; such a read changes only the
response, whose value is left open, and the model's counter of open reads (log 7, 11). -/
def Obligations.WrongWidthOrMisalignedAccess : Prop :=
  ∀ (width off : Nat) (w : Word) (s : State), off < windowSize → (width ≠ 32 ∨ off % 4 ≠ 0) →
    hostAccess (.write width off w) s = .next s ∧
    ∃ x, hostAccess (.read width off) s = .next { s with readData := x, draws := s.draws + 1 }

/-- R51, R53, R54, R83: while idle a write of a MSG, B or J word is read back and changes no other
register of the window. That another word that is UNINIT reads as before rests on log 7: the write alone
does not move the event counter that its free value is applied to, the step does. -/
def Obligations.WindowReadsBackWrites : Prop :=
  ∀ (s : State) (off : Nat) (w : Word), s.status.busy = false → off % 4 = 0 → IsWritableData off →
    ∃ t, hostAccess (.write 32 off w) s = .next t ∧
      hostAccess (.read 32 off) t = .next { t with readData := w } ∧
      ∀ off' : Nat, off' % 4 = 0 → off' < windowSize → off' ≠ off →
        t.regRead (locate off') = s.regRead (locate off')

/-- R33, R53, R89: the three views of a bignum agree: eight 32-bit words, four 64-bit limbs, one
integer. -/
def Obligations.BignumViewsAgree : Prop :=
  ∀ x : Bignum,
    (∀ k < 4, limb x k = (wordOf x (2 * k)).toNat + 2 ^ 32 * (wordOf x (2 * k + 1)).toNat) ∧
    x.toNat = limb x 0 + 2 ^ 64 * limb x 1 + 2 ^ 128 * limb x 2 + 2 ^ 192 * limb x 3

/-- R53, R481: the host's eight writes of a bignum to B_r make it the operand B[r], and no other
register of the files changes. -/
def Obligations.WrittenBignumIsTheOperand : Prop :=
  ∀ (s : State) (r : Field) (x : Bignum), s.status.busy = false →
    ∃ t, writeBignum r x s = .next t ∧ t.readB r = x ∧ t.b[r].isWritten = true ∧
      (∀ r' : Field, r' ≠ r → t.b[r'] = s.b[r']) ∧ t.j = s.j ∧ t.v = s.v ∧ t.msg = s.msg

/-- R43, R410: a STATUS write clears each W1C bit whose written bit is 1 and changes nothing else; IRQ
follows IE and DONE. -/
def Obligations.StatusWriteClearsWrittenOnes : Prop :=
  ∀ (s : State) (w : Word),
    ∃ t, hostAccess (.write 32 0x008 w) s = .next t ∧ t = { s with status := t.status } ∧
      t.status.busy = s.status.busy ∧ t.status.flag = s.status.flag ∧
      t.status.sm3st = s.status.sm3st ∧
      (t.status.done = true ↔ s.status.done = true ∧ w.getLsbD 1 = false) ∧
      (t.status.err = true ↔ s.status.err = true ∧ w.getLsbD 2 = false) ∧
      (t.status.cmdovr = true ↔ s.status.cmdovr = true ∧ w.getLsbD 6 = false) ∧
      (t.status.wrbusy = true ↔ s.status.wrbusy = true ∧ w.getLsbD 7 = false) ∧
      t.irq = (s.ie && s.status.done && !w.getLsbD 1)

/-- R41 to R52, R55, R461: the word a host read returns. Control registers, STATUS with its layout and the
reserved offsets read the same while BUSY; V, MSG, ENC, B and J words that are written read their value
while idle and a free value while BUSY. The response field and the counter of open reads are the model's
(log 7, 8). -/
def Obligations.RegisterReadsReturnTheirWords : Prop :=
  ∀ s : State,
    let reads (off : Nat) (w : Word) : Prop :=
      hostAccess (.read 32 off) s = .next { s with readData := w }
    reads 0x000 0x534D3201#32 ∧
    reads 0x004 (if s.ie then 0x00000002#32 else 0x00000000#32) ∧
    (∃ w, reads 0x008 w ∧ w.getLsbD 0 = s.status.busy ∧ w.getLsbD 1 = s.status.done ∧
      w.getLsbD 2 = s.status.err ∧ w.getLsbD 3 = s.status.flag ∧
      (s.status.sm3st = .idle → w.extractLsb' 4 2 = 0b00#2) ∧
      (s.status.sm3st = .active → w.extractLsb' 4 2 = 0b01#2) ∧
      (s.status.sm3st = .final → w.extractLsb' 4 2 = 0b10#2) ∧
      w.getLsbD 6 = s.status.cmdovr ∧ w.getLsbD 7 = s.status.wrbusy ∧ w.extractLsb' 8 24 = 0#24) ∧
    reads 0x00C s.cmd ∧
    (∃ w, reads 0x010 w ∧ w.toNat = s.errcode.toNat) ∧
    reads 0x014 s.cmpres ∧
    (∃ lo hi, reads 0x018 lo ∧ reads 0x01C hi ∧ s.sm3len.toNat = hi.toNat * 2 ^ 32 + lo.toNat) ∧
    (∃ w, reads 0x020 w ∧ w.toNat = s.enccnt.toNat) ∧
    (∃ w, reads 0x024 w ∧ w.toNat = s.enctop.toNat) ∧
    (∀ off, off % 4 = 0 → IsReserved off → reads off 0x00000000#32) ∧
    (s.status.busy = false →
      (∀ i : Fin 8, s.v[i].written = true → reads (0x040 + 4 * i) s.v[i].value) ∧
      (∀ i : Fin 16, s.msg[i].written = true → reads (0x080 + 4 * i) s.msg[i].value) ∧
      (∀ i : Fin 64, reads (0x100 + 4 * i) s.enc[i]) ∧
      (∀ (r : Fin 16) (k : Fin 8), s.b[r].written.getLsbD k = true →
        reads (0x400 + 32 * r + 4 * k) (s.b[r].value.extractLsb' (32 * k) 32)) ∧
      (∀ (r k : Fin 8), s.j[r].x.written.getLsbD k = true →
        reads (0x600 + 96 * r + 4 * k) (s.j[r].x.value.extractLsb' (32 * k) 32)) ∧
      (∀ (r k : Fin 8), s.j[r].y.written.getLsbD k = true →
        reads (0x600 + 96 * r + 32 + 4 * k) (s.j[r].y.value.extractLsb' (32 * k) 32)) ∧
      (∀ (r k : Fin 8), s.j[r].z.written.getLsbD k = true →
        reads (0x600 + 96 * r + 64 + 4 * k) (s.j[r].z.value.extractLsb' (32 * k) 32))) ∧
    (s.status.busy = true → ∀ off, off % 4 = 0 → IsReadOnlyData off ∨ IsWritableData off →
      ∃ w, hostAccess (.read 32 off) s = .next { s with readData := w, draws := s.draws + 1 })

/-! ### Reset and the invariant -/

/-- R42, R452: a CTRL write with SRST = 1 resets the control state, discards the IE bit of the same
write, and leaves data storage unchanged; one with SRST = 0 only sets IE to its bit 1, busy or idle, and
IRQ follows (R410). A read of CTRL gives IE in bit 1 and 0 elsewhere. -/
def Obligations.CtrlWriteResetsOrSetsIe : Prop :=
  State.reset.ie = false ∧
  ∀ (s : State) (w : Word),
    (w.getLsbD 0 = true →
      ∃ t, hostAccess (.write 32 0x004 w) s = .next t ∧ ControlIsReset t ∧
        SameBig s t ∧ SamePoints s t ∧ t.v = s.v ∧ t.msg = s.msg) ∧
    (w.getLsbD 0 = false →
      ∃ t, hostAccess (.write 32 0x004 w) s = .next t ∧ t = { s with ie := w.getLsbD 1 } ∧
        t.irq = (w.getLsbD 1 && s.status.done)) ∧
    ∃ r : Word, hostAccess (.read 32 0x004) s = .next { s with readData := r } ∧
      r.getLsbD 1 = s.ie ∧ ∀ k, k ≠ 1 → r.getLsbD k = false

/-- R450: hardware reset clears the control state and leaves every word of data storage UNINIT; a running
command is abandoned (R451). The reset cycle, which holds no access, and the schedule are the model's
(log 1, 14). -/
def Obligations.HardwareResetLeavesStorageUninit : Prop :=
  ControlIsReset State.reset ∧ StorageIsUninit State.reset ∧
  ∀ (s : State) (rest : List Cycle), s.schedule = .reset :: rest →
    ∃ t, step s = .next t ∧ ControlIsReset t ∧ StorageIsUninit t ∧ t.schedule = rest

/-- The invariant holds after reset. -/
def Obligations.ResetSatisfiesInvariant : Prop := State.reset.Inv

/-- Every step keeps the invariant: CMPRES and ERRCODE hold values of their rules, the encoder
registers hold an encoding, a started SM3 context has no UNINIT chaining word (R36, R46, R48, R49, R52,
R251, R320, R321, R400). -/
def Obligations.StepKeepsInvariant : Prop :=
  ∀ s t : State, s.Inv → step s = .next t → t.Inv

/-- R31, R406, R80, R411: a step stops only at a host access outside the window (log 10) or at the completion
of a command with an UNINIT operand (which words are operands, and when: log 6). Such a command always
faults; a command whose operands are written always completes. -/
def Obligations.StepStopsOnlyAsNamed : Prop :=
  (∀ s : State, (∃ t, step s = .next t) ∨
    (∃ a lat hf rest, s.schedule = .run (some a) lat hf :: rest ∧ windowSize ≤ a.off ∧
      step s = .fault (.outsideWindow a.off)) ∨
    (s.status.busy = true ∧ ∃ i, decode s.cmd = .ok i ∧ operandsWritten i s = false ∧
      step s = .fault .uninitOperand)) ∧
  ∀ (i : Instr) (s : State),
    (operandsWritten i s = false → exec i s = .fault .uninitOperand) ∧
    (operandsWritten i s = true → ∃ t, exec i s = .next t)

/-! ### The field unit (spec/40_field.md) -/

/-- R150. -/
def Obligations.AddpWritesSum : Prop :=
  ∀ (d a b : Field) (s : State),
    HasWord (.addp d a b) 0x10 d a b 0 0 ∧
    (s.writtenB a = true → s.writtenB b = true → ∃ t, exec (.addp d a b) s = .next t ∧
        WritesBig s t d (((s.readB a).toNat + (s.readB b).toNat) % p))

/-- R152. -/
def Obligations.SubpWritesDifference : Prop :=
  ∀ (d a b : Field) (s : State),
    HasWord (.subp d a b) 0x11 d a b 0 0 ∧
    (s.writtenB a = true → s.writtenB b = true → ∃ t, exec (.subp d a b) s = .next t ∧
        WritesBig s t d ((((s.readB a).toNat : Int) - (s.readB b).toNat) % p).toNat)

/-- R154, R156: MULP and SQRP. -/
def Obligations.MulpAndSqrpWriteProduct : Prop :=
  (∀ (d a b : Field) (s : State),
    HasWord (.mulp d a b) 0x12 d a b 0 0 ∧
    (s.writtenB a = true → s.writtenB b = true → ∃ t, exec (.mulp d a b) s = .next t ∧
      WritesBig s t d ((s.readB a).toNat * (s.readB b).toNat % p))) ∧
  (∀ (d a : Field) (s : State),
    HasWord (.sqrp d a) 0x13 d a 0 0 0 ∧
    (s.writtenB a = true → ∃ t, exec (.sqrp d a) s = .next t ∧
      WritesBig s t d ((s.readB a).toNat ^ 2 % p)))

/-- R157: RS1 is the low half, RS2 the high half. -/
def Obligations.ModpReducesTwoHalves : Prop :=
  ∀ (d lo hi : Field) (s : State),
    HasWord (.modp d lo hi) 0x14 d lo hi 0 0 ∧
    (s.writtenB lo = true → s.writtenB hi = true → ∃ t, exec (.modp d lo hi) s = .next t ∧
      WritesBig s t d (((s.readB hi).toNat * 2 ^ 256 + (s.readB lo).toNat) % p))

/-- R160: the inverse, or E_INV with nothing written. -/
def Obligations.InvpWritesInverse : Prop :=
  ∀ (d a : Field) (s : State),
    HasWord (.invp d a) 0x15 d a 0 0 0 ∧
    (s.writtenB a = true → (s.readB a).toNat % p = 0 →
      ∃ t, exec (.invp d a) s = .next t ∧ OnlyIndicatorsChange s t 2#4) ∧
    (s.writtenB a = true → (s.readB a).toNat % p ≠ 0 →
      ∃ t x, exec (.invp d a) s = .next t ∧ WritesBig s t d x ∧ 1 ≤ x ∧ x < p ∧
        (s.readB a).toNat * x % p = 1 ∧
        ∀ y, y < p → (s.readB a).toNat * y % p = 1 → y = x)

/-- R162. -/
def Obligations.AddnWritesSumModOrder : Prop :=
  ∀ (d a b : Field) (s : State),
    HasWord (.addn d a b) 0x18 d a b 0 0 ∧
    (s.writtenB a = true → s.writtenB b = true → ∃ t, exec (.addn d a b) s = .next t ∧
        WritesBig s t d (((s.readB a).toNat + (s.readB b).toNat) % n))

/-- R164, R166: CHKN and ISVAL set FLAG and change no register. -/
def Obligations.PredicatesSetFlag : Prop :=
  (∀ (a : Field) (s : State),
    HasWord (.chkn a) 0x19 0 a 0 0 0 ∧
    (s.writtenB a = true → ∃ t, exec (.chkn a) s = .next t ∧ OnlyFlagChanges s t ∧
      (t.status.flag = true ↔ 0 < (s.readB a).toNat ∧ (s.readB a).toNat < n))) ∧
  (∀ (a : Field) (s : State),
    HasWord (.isval a) 0x1B 0 a 0 0 0 ∧
    (s.writtenB a = true → ∃ t, exec (.isval a) s = .next t ∧ OnlyFlagChanges s t ∧
      (t.status.flag = true ↔ (s.readB a).toNat ≠ 0)))

/-- R165, R168: CMPRES is -1, 0 or +1 as a two's-complement word, by the unsigned order. -/
def Obligations.CmpWritesOrder : Prop :=
  ∀ (a b : Field) (s : State),
    HasWord (.cmp a b) 0x1A 0 a b 0 0 ∧
    (s.writtenB a = true → s.writtenB b = true →
      ∃ t, exec (.cmp a b) s = .next t ∧ OnlyCmpresChanges s t ∧
        ((s.readB a).toNat < (s.readB b).toNat → t.cmpres = 0xFFFFFFFF#32) ∧
        ((s.readB a).toNat = (s.readB b).toNat → t.cmpres = 0x00000000#32) ∧
        ((s.readB b).toNat < (s.readB a).toNat → t.cmpres = 0x00000001#32))

/-- R151, R153, R163: the add-then-correct datapaths compute the values of the command rules. -/
def Obligations.AddAndSubtractDatapathsAgree : Prop :=
  ∀ a b : Bignum, addpDatapath a b = (addp a b).toNat ∧ subpDatapath a b = (subp a b).toNat ∧
    addnDatapath a b = (addn a b).toNat

/-- R155, R158, R159: the schoolbook product and the special-form reduction compute the values of MODP
and MULP. -/
def Obligations.ReductionDatapathAgrees : Prop :=
  (∀ lo hi : Bignum, modpDatapath (hi.toNat * 2 ^ 256 + lo.toNat) = (modp lo hi).toNat) ∧
  (∀ a b : Bignum, schoolbook a b = a.toNat * b.toNat ∧ mulpDatapath a b = (mulp a b).toNat)

/-- R161: the binary extended-Euclidean datapath computes the inverse of every operand that the guard
of R160 admits. -/
def Obligations.InversionDatapathAgrees : Prop :=
  ∀ a : Bignum, a.toNat % p ≠ 0 → a.toNat * kaliski a % p = 1 ∧ kaliski a < p

/-! ### The point unit (spec/41_point.md) -/

/-- R200, R201, R202: doubling, over the integers; infinity is copied. -/
def Obligations.PdblDoublesOrCopiesInfinity : Prop :=
  ∀ (d a : Field) (s : State),
    let q := s.readJ a
    let x : Int := q.x.toNat
    let y : Int := q.y.toNat
    let z : Int := q.z.toNat
    let m : Int := 3 * x ^ 2 + (curveA.toNat : Int) * z ^ 4
    let u : Int := 4 * x * y ^ 2
    let x3 : Int := (m ^ 2 - 2 * u) % p
    let y3 : Int := (m * (u - x3) - 8 * y ^ 4) % p
    let z3 : Int := 2 * y * z % p
    HasWord (.pdbl d a) 0x20 d a 0 0 0 ∧
    (s.writtenJ a = true → z = 0 → ∃ t, exec (.pdbl d a) s = .next t ∧
      WritesPoint s t d x.toNat y.toNat 0) ∧
    (s.writtenJ a = true → z ≠ 0 → ∃ t, exec (.pdbl d a) s = .next t ∧
      WritesPoint s t d x3.toNat y3.toNat z3.toNat)

/-- R203, R204: addition, over the integers; an infinite operand gives a copy of the other. -/
def Obligations.PaddAddsOrCopies : Prop :=
  ∀ (d a b : Field) (s : State),
    let q := s.readJ a
    let r := s.readJ b
    let x1 : Int := q.x.toNat
    let y1 : Int := q.y.toNat
    let z1 : Int := q.z.toNat
    let x2 : Int := r.x.toNat
    let y2 : Int := r.y.toNat
    let z2 : Int := r.z.toNat
    let u1 : Int := x1 * z2 ^ 2
    let s1 : Int := y1 * z2 ^ 3
    let h : Int := x2 * z1 ^ 2 - u1
    let e : Int := y2 * z1 ^ 3 - s1
    let x3 : Int := (e ^ 2 - h ^ 3 - 2 * u1 * h ^ 2) % p
    let y3 : Int := (e * (u1 * h ^ 2 - x3) - s1 * h ^ 3) % p
    let z3 : Int := z1 * z2 * h % p
    HasWord (.padd d a b) 0x21 d a b 0 0 ∧
    (s.writtenJ a = true → s.writtenJ b = true → z1 = 0 → ∃ t, exec (.padd d a b) s = .next t ∧
      WritesPoint s t d r.x.toNat r.y.toNat r.z.toNat) ∧
    (s.writtenJ a = true → s.writtenJ b = true → z1 ≠ 0 → z2 = 0 → ∃ t, exec (.padd d a b) s = .next t ∧
      WritesPoint s t d q.x.toNat q.y.toNat q.z.toNat) ∧
    (s.writtenJ a = true → s.writtenJ b = true → z1 ≠ 0 → z2 ≠ 0 → ∃ t, exec (.padd d a b) s = .next t ∧
      WritesPoint s t d x3.toNat y3.toNat z3.toNat)

/-- R206, R207: Y becomes `(0 - Y) mod p`, X and Z are kept. -/
def Obligations.PnegNegatesY : Prop :=
  ∀ (d a : Field) (s : State),
    HasWord (.pneg d a) 0x22 d a 0 0 0 ∧
    (s.writtenJ a = true → ∃ t, exec (.pneg d a) s = .next t ∧
      WritesPoint s t d (s.readJ a).x.toNat ((0 - ((s.readJ a).y.toNat : Int)) % p).toNat
        (s.readJ a).z.toNat)

/-- R208, R209: x and y are copied bit for bit, Z is 1. -/
def Obligations.TojcbLifts : Prop :=
  ∀ (d a b : Field) (s : State),
    HasWord (.tojcb d a b) 0x23 d a b 0 0 ∧
    (s.writtenB a = true → s.writtenB b = true → ∃ t, exec (.tojcb d a b) s = .next t ∧
      WritesPoint s t d (s.readB a).toNat (s.readB b).toNat 1)

/-- R210, R211: E_INF, then E_INV, else the canonical `X / Z^2` and `Y / Z^3`. -/
def Obligations.ToaffProjects : Prop :=
  ∀ (d a : Field) (s : State),
    let q := s.readJ a
    HasWord (.toaff d a) 0x24 d a 0 0 0 ∧
    (s.writtenJ a = true → q.z.toNat = 0 →
      ∃ t, exec (.toaff d a) s = .next t ∧ OnlyIndicatorsChange s t 3#4) ∧
    (s.writtenJ a = true → q.z.toNat ≠ 0 → q.z.toNat % p = 0 →
      ∃ t, exec (.toaff d a) s = .next t ∧ OnlyIndicatorsChange s t 2#4) ∧
    (s.writtenJ a = true → q.z.toNat % p ≠ 0 →
      ∃ t x y, exec (.toaff d a) s = .next t ∧ WritesPair s t d x y ∧ x < p ∧ y < p ∧
        x * q.z.toNat ^ 2 % p = q.x.toNat % p ∧ y * q.z.toNat ^ 3 % p = q.y.toNat % p)

/-- R203: with the operands of an addition swapped, X is the same and Y and Z are negated. -/
def Obligations.SwappedAdditionNegatesYAndZ : Prop :=
  ∀ q r : Point, q.z ≠ 0#256 → r.z ≠ 0#256 →
    (paddValue r q).x = (paddValue q r).x ∧
    (paddValue r q).y = subp 0#256 (paddValue q r).y ∧
    (paddValue r q).z = subp 0#256 (paddValue q r).z

/-- R205: addition does not detect equal or opposite points: with `H = 0` and `R = 0` it gives
`(0, 0, 0)`, with `H = 0` and `R != 0` it gives `(R^2, Y3, 0)`. -/
def Obligations.EqualPointsAddToInfinity : Prop :=
  ∀ q r : Point, q.z ≠ 0#256 → r.z ≠ 0#256 → addH q r = 0#256 →
    (addR q r = 0#256 → paddValue q r = ⟨0#256, 0#256, 0#256⟩) ∧
    (addR q r ≠ 0#256 → (paddValue q r).x = sqrp (addR q r) ∧ (paddValue q r).z = 0#256)

/-- R201: the generic M equals the factored form `3 (X - Z^2) (X + Z^2)`. -/
def Obligations.DoublingFactoredFormAgrees : Prop :=
  ∀ q : Point,
    dblM q = mulp (small 3) (mulp (subp q.x (sqrp q.z)) (addp q.x (sqrp q.z)))

/-! ### The scalar unit (spec/42_scalar.md) -/

/-- R251: the properties of the encoding. -/
def Obligations.EncodingRepresentsScalar : Prop :=
  ∀ k : Bignum,
    (∀ d ∈ encodeScalar k, d.code % 2 = 1 ∧ -15 ≤ d.code ∧ d.code ≤ 15 ∧ d.shift ≤ 256 ∧
      (d.shift = 256 → d.code = 1)) ∧
    ((encodeScalar k).map fun d => d.code * 2 ^ d.shift).sum = (k.toNat : Int) ∧
    (encodeScalar k).Pairwise (fun d e => d.shift + 5 ≤ e.shift) ∧
    (encodeScalar k).length ≤ 52 ∧
    (k = 0#256 → encodeScalar k = [])

/-- R255: SENC exposes the encoding in ENCCNT, ENCTOP and the ENC words, and changes nothing else. -/
def Obligations.SencExposesEncoding : Prop :=
  ∀ (a : Field) (s : State),
    let e := encodeScalar (s.readB a)
    HasWord (.senc a) 0x30 0 a 0 0 0 ∧
    (s.writtenB a = true → ∃ t, exec (.senc a) s = .next t ∧ OnlyEncChanges s t ∧
      t.enccnt.toNat = e.length ∧ t.enctop.toNat = topShift e ∧
      (∀ d : Digit, e.getLast? = some d → t.enctop.toNat = d.shift) ∧ (e = [] → t.enctop = 0#9) ∧
      (∀ (i : Fin 64) (d : Digit), e[i.val]? = some d →
        encCode t.enc[i] = d.code ∧ encShift t.enc[i] = d.shift ∧
          t.enc[i].extractLsb' 8 8 = 0#8 ∧ t.enc[i].extractLsb' 25 7 = 0#7) ∧
      (∀ i : Fin 64, e.length ≤ i.val → t.enc[i] = 0#32))

/-- R252, R253: the arrangement of the table and its entries. -/
def Obligations.PretableArrangement : Prop :=
  (∀ k : Nat, k < 8 → tableIndex (2 * k + 1) = k ∧ tableIndex (-(2 * k + 1)) = 8 + k) ∧
  ∀ x y : Bignum,
    let t := pretable x y
    t.length = 16 ∧ t[0]? = some ⟨x, y, 1#256⟩ ∧
    (∀ k : Nat, 1 ≤ k → k < 8 →
      t[k]? = some (paddValue (t.getD (k - 1) infinity) (pdblValue ⟨x, y, 1#256⟩))) ∧
    (∀ k : Nat, k < 8 → t[8 + k]? = some (pnegValue (t.getD k infinity)))

/-- R265, R266, R269: in any commutative group, the schedule of the two encodings, with a doubling after
every position except position 0, computes `k1 g + k2 h`. On points: whenever no addition, of the tables
or of the schedule, meets equal points, the accumulator of DSM has the value `k1 G + k2 P` in every group
that doubling, negation and the other additions follow. -/
def Obligations.ScheduleComputesCombination : Prop :=
  (∀ (A : Type) [AddCommGroup A] (g h : A) (k1 k2 : Bignum),
    combineWith (fun q : A => q + q)
      (fun i q => q + (digitAt (encodeScalar k1) i).getD 0 • g + (digitAt (encodeScalar k2) i).getD 0 • h)
      (topShift (encodeScalar k1 ++ encodeScalar k2)) 0 = k1.toNat • g + k2.toNat • h) ∧
  ∀ (A : Type) [AddCommGroup A] (good : Point → Prop) (val : Point → A) (k1 k2 px py : Bignum)
      (top : Nat) (before mid after : Nat → Point),
    let e1 := encodeScalar k1
    let e2 := encodeScalar k2
    FollowsGroup good val → good ⟨gx, gy, 1#256⟩ → good ⟨px, py, 1#256⟩ →
    TableAvoidsEqual gx gy → TableAvoidsEqual px py → IsTopPosition (e1 ++ e2) top →
    FollowsSchedule e1 e2 (pretable gx gy) (pretable px py) top before mid after →
    ScheduleAvoidsEqual e1 e2 (pretable gx gy) (pretable px py) before mid →
    val (dsmAccumulator k1 k2 px py) =
      k1.toNat • val ⟨gx, gy, 1#256⟩ + k2.toNat • val ⟨px, py, 1#256⟩

/-- R262, R265, R266, R267: the accumulator of DSM is what the schedule leaves after position 0: from the
top position down, the G entry, then the P entry, then a doubling but at position 0. With written operands
DSM reports E_INF when the accumulator is infinite, else writes its affine form; E_INV cannot occur, and
the ENC registers are unchanged. -/
def Obligations.DsmWritesAffineAccumulator : Prop :=
  (∀ (k1 k2 px py : Bignum) (top : Nat) (before mid after : Nat → Point),
    let e1 := encodeScalar k1
    let e2 := encodeScalar k2
    IsTopPosition (e1 ++ e2) top →
    FollowsSchedule e1 e2 (pretable gx gy) (pretable px py) top before mid after →
    dsmAccumulator k1 k2 px py = after 0) ∧
  ∀ (d a b c : Field) (s : State),
    let q := dsmAccumulator (s.readB a) (s.readB b) (s.readB c) (s.readB (pairNext c))
    HasWord (.dsm d a b c) 0x31 d a b c 0 ∧
    (s.writtenB a = true → s.writtenB b = true → s.writtenB c = true →
      s.writtenB (pairNext c) = true →
      (q.z = 0#256 → ∃ t, exec (.dsm d a b c) s = .next t ∧ OnlyIndicatorsChange s t 3#4) ∧
      (q.z ≠ 0#256 →
        ∃ t x y, exec (.dsm d a b c) s = .next t ∧ WritesPair s t d x y ∧ x < p ∧ y < p ∧
          x * q.z.toNat ^ 2 % p = q.x.toNat % p ∧ y * q.z.toNat ^ 3 % p = q.y.toNat % p))

/-- R265, R266: `1 G + 0 P` is G for every written P. R268: `1 G + 1 G` meets equal points and gives
E_INF. -/
def Obligations.DsmOfOneAndZeroIsGenerator : Prop :=
  ∀ (d a b c : Field) (s : State), s.writtenB a = true → s.writtenB b = true → s.writtenB c = true →
    s.writtenB (pairNext c) = true → s.readB a = 1#256 →
    (s.readB b = 0#256 →
      ∃ t, exec (.dsm d a b c) s = .next t ∧ WritesPair s t d gx.toNat gy.toNat) ∧
    (s.readB b = 1#256 → s.readB c = gx → s.readB (pairNext c) = gy →
      ∃ t, exec (.dsm d a b c) s = .next t ∧ OnlyIndicatorsChange s t 3#4)

/-! ### SM3 and NOP (spec/43_sm3.md) -/

/-- R301 to R304, R307 to R309: for every sequence of words that follows the expansion recurrence of a block
and every sequence of states that follows the round on them from `v`, the compression is the exclusive or
of `v` and the state after round 63. -/
def Obligations.CompressionFollowsItsFormulas : Prop :=
  ∀ (v : Chain) (block : List Word) (w : Nat → Word) (st : Nat → Chain), block.length = 16 →
    (∀ j, j < 16 → block[j]? = some (w j)) →
    (∀ j, 16 ≤ j → j < 68 →
      let x := w (j - 16) ^^^ w (j - 9) ^^^ (w (j - 3)).rotateLeft 15
      w j = (x ^^^ x.rotateLeft 15 ^^^ x.rotateLeft 23) ^^^ (w (j - 13)).rotateLeft 7 ^^^ w (j - 6)) →
    st 0 = v →
    (∀ j, j < 64 →
      let ⟨a, b, c, d, e, f, g, h⟩ := st j
      let t : Word := if j < 16 then 0x79CC4519#32 else 0x7A879D8A#32
      let ff : Word := if j < 16 then a ^^^ b ^^^ c else (a &&& b) ||| (a &&& c) ||| (b &&& c)
      let gg : Word := if j < 16 then e ^^^ f ^^^ g else (e &&& f) ||| (~~~e &&& g)
      let ss1 := (a.rotateLeft 12 + e + t.rotateLeft (j % 32)).rotateLeft 7
      let ss2 := ss1 ^^^ a.rotateLeft 12
      let tt1 := ff + d + ss2 + (w j ^^^ w (j + 4))
      let tt2 := gg + h + ss1 + w j
      st (j + 1) = ⟨tt1, a, b.rotateLeft 9, c,
        tt2 ^^^ tt2.rotateLeft 9 ^^^ tt2.rotateLeft 17, e, f.rotateLeft 19, g⟩) →
    compress v block =
      ⟨v.a ^^^ (st 64).a, v.b ^^^ (st 64).b, v.c ^^^ (st 64).c, v.d ^^^ (st 64).d,
       v.e ^^^ (st 64).e, v.f ^^^ (st 64).f, v.g ^^^ (st 64).g, v.h ^^^ (st 64).h⟩

/-- R300, R321. -/
def Obligations.Sm3initStartsContext : Prop :=
  ∀ s : State,
    HasWord .sm3init 0x40 0 0 0 0 0 ∧
    ∃ t, exec .sm3init s = .next t ∧ HoldsChain t ⟨0x7380166F#32, 0x4914B2B9#32, 0x172442D7#32,
      0xDA8A0600#32, 0xA96F30BC#32, 0x163138AA#32, 0xE38DEE4D#32, 0xB0FB0E4E#32⟩ ∧ t.sm3len = 0#64 ∧
      t.status.sm3st = .active ∧ OnlySm3Changes s t

/-- R320, R322, R323: SM3BLK's checks in order, then one compression. That the state check answers also when
V or MSG is UNINIT is log 6, deduced from R453 against the order of R406. -/
def Obligations.Sm3blkCompressesOneBlock : Prop :=
  ∀ s : State,
    HasWord .sm3blk 0x41 0 0 0 0 0 ∧
    (s.status.sm3st ≠ .active → ∃ t, exec .sm3blk s = .next t ∧ OnlyIndicatorsChange s t 4#4) ∧
    (s.status.sm3st = .active → s.writtenV = true → s.writtenMsg 64 = true →
      2 ^ 64 - 1 < s.sm3len.toNat + 64 →
      ∃ t, exec .sm3blk s = .next t ∧ OnlyIndicatorsChange s t 5#4) ∧
    (s.status.sm3st = .active → s.writtenV = true → s.writtenMsg 64 = true →
      s.sm3len.toNat + 64 ≤ 2 ^ 64 - 1 →
      ∃ t, exec .sm3blk s = .next t ∧ HoldsChain t (compress s.readV s.readMsg) ∧
        t.sm3len.toNat = s.sm3len.toNat + 64 ∧ t.status.sm3st = .active ∧ OnlySm3Changes s t)

/-- R320, R323, R324: SM3FIN's checks in order, then the padding blocks are compressed. That the state check
answers also when V or MSG is UNINIT is log 6, deduced from R453 against the order of R406. -/
def Obligations.Sm3finPadsAndFinishes : Prop :=
  ∀ (c : Fin 64) (s : State),
    HasWord (.sm3fin c) 0x42 0 0 0 0 c ∧
    (s.status.sm3st ≠ .active →
      ∃ t, exec (.sm3fin c) s = .next t ∧ OnlyIndicatorsChange s t 4#4) ∧
    (s.status.sm3st = .active → s.writtenV = true → s.writtenMsg c = true →
      2 ^ 64 - 1 < s.sm3len.toNat + c →
      ∃ t, exec (.sm3fin c) s = .next t ∧ OnlyIndicatorsChange s t 5#4) ∧
    (s.status.sm3st = .active → s.writtenV = true → s.writtenMsg c = true →
      s.sm3len.toNat + c ≤ 2 ^ 64 - 1 →
      ∃ t, exec (.sm3fin c) s = .next t ∧
        HoldsChain t ((pad (s.readTail c) (s.sm3len.toNat + c)).foldl compress s.readV) ∧
        t.sm3len.toNat = s.sm3len.toNat + c ∧ t.status.sm3st = .final ∧ OnlySm3Changes s t)

/-- R310, R311: the shape of the padding and its bit length. -/
def Obligations.PaddingFillsWholeBlocks : Prop :=
  ∀ (tail : List Byte) (total : Nat), tail.length ≤ 63 →
    (padBytes tail total).length = (if tail.length ≤ 55 then 1 else 2) ∧
    (∀ b ∈ padBytes tail total, b.length = 64) ∧
    (∃ zeros, (padBytes tail total).flatten =
      tail ++ [0x80#8] ++ List.replicate zeros 0#8 ++ beBytes64 (BitVec.ofNat 64 (8 * total))) ∧
    ∃ w, (pad tail total).getLast? = some w ∧ w.length = 16 ∧
      w[14]? = some ((BitVec.ofNat 64 (8 * total)).extractLsb' 32 32) ∧
      w[15]? = some ((BitVec.ofNat 64 (8 * total)).extractLsb' 0 32)

/-- R86: byte `m[4i+t]` of a block is bits `[31-8t : 24-8t]` of MSG_i, and the words of the buffer's
bytes are the buffer's words. -/
def Obligations.MessageBytesAreBigEndian : Prop :=
  ∀ s : State,
    (∀ (i : Fin 16) (t : Nat), t < 4 →
      (s.readTail 64)[4 * i.val + t]? = some (s.msg[i].value.extractLsb' (24 - 8 * t) 8)) ∧
    beWords (s.readTail 64) = s.readMsg

/-- R340: NOP changes nothing but the completion's indicators. -/
def Obligations.NopOnlyCompletes : Prop :=
  ∀ s : State,
    HasWord .nop 0x01 0 0 0 0 0 ∧ ∃ t, exec .nop s = .next t ∧ OnlyIndicatorsChange s t 0#4
end

