-- ==== Sys2Proof/Laws/Primality.lean ====
section
/-! SUPPORT. The SM2 prime `p` is prime (spec/00_scope.md R13 calls it so), by the N+1 test: `p + 1` is
`2^64 (2^32 - 1) (2^160 - 1)`, and an element of order `p + 1` in a quadratic extension cannot exist if
`p` has a prime factor of size at most its square root. -/

namespace Sys2Proof.Laws

/-! ### Powers by repeated squaring, evaluated by the kernel -/

/-- `x ^ e mod m`, for `e < 2 ^ bits`. -/
def powMod (m : Nat) : (bits x e : Nat) → Nat
  | 0, _, _ => 1
  | bits + 1, x, e =>
    if e % 2 = 1 then x * powMod m bits (x * x % m) (e / 2) % m else powMod m bits (x * x % m) (e / 2)

theorem powMod_cast (m : Nat) : ∀ bits x e, e < 2 ^ bits → ((powMod m bits x e : Nat) : ZMod m) = (x : ZMod m) ^ e
  | 0, x, e, h => by
    have : e = 0 := by omega
    simp [powMod, this]
  | bits + 1, x, e, h => by
    have h2 : e / 2 < 2 ^ bits := by omega
    have sq : ((x * x % m : Nat) : ZMod m) = (x : ZMod m) ^ 2 := by
      rw [ZMod.natCast_mod]; push_cast; ring
    have ih := powMod_cast m bits (x * x % m) (e / 2) h2
    rw [sq, ← pow_mul] at ih
    unfold powMod
    split
    · rw [ZMod.natCast_mod, Nat.cast_mul, ih, ← pow_succ']
      congr 1; omega
    · rw [ih]; congr 1; omega

/-- The check of Lucas' test at a divisor: `x ^ e` is not 1 mod `m`. -/
theorem pow_ne_one_of_powMod {m bits x e : Nat} (hm : 1 < m) (he : e < 2 ^ bits)
    (h : powMod m bits x e % m ≠ 1) : (x : ZMod m) ^ e ≠ 1 := by
  intro h1
  rw [← powMod_cast m bits x e he, ← Nat.cast_one, ZMod.natCast_eq_natCast_iff'] at h1
  rw [Nat.mod_eq_of_lt hm] at h1
  exact h h1

theorem pow_eq_one_of_powMod {m bits x e : Nat} (he : e < 2 ^ bits)
    (h : powMod m bits x e = 1) : (x : ZMod m) ^ e = 1 := by
  rw [← powMod_cast m bits x e he, h, Nat.cast_one]

theorem prime_4278255361 : Nat.Prime 4278255361 := by
  refine lucas_primality _ ((23 : Nat) : ZMod 4278255361) (pow_eq_one_of_powMod (bits := 32) (by decide) (by decide +kernel)) ?_
  intro q hq hd
  have hd' : q ∣ 2 ^ 8 * 3 * 5 * 17 * 65537 := by simpa using hd
  simp only [hq.dvd_mul] at hd'
  have cases : q = 2 ∨ q = 3 ∨ q = 5 ∨ q = 17 ∨ q = 65537 := by
    rcases hd' with (((h | h) | h) | h) | h
    · exact .inl ((Nat.prime_dvd_prime_iff_eq hq (by norm_num)).1 (hq.dvd_of_dvd_pow h))
    · exact .inr (.inl ((Nat.prime_dvd_prime_iff_eq hq (by norm_num)).1 h))
    · exact .inr (.inr (.inl ((Nat.prime_dvd_prime_iff_eq hq (by norm_num)).1 h)))
    · exact .inr (.inr (.inr (.inl ((Nat.prime_dvd_prime_iff_eq hq (by norm_num)).1 h))))
    · exact .inr (.inr (.inr (.inr ((Nat.prime_dvd_prime_iff_eq hq (by norm_num)).1 h))))
  rcases cases with rfl | rfl | rfl | rfl | rfl <;>
    exact pow_ne_one_of_powMod (bits := 32) (by decide) (by decide) (by decide +kernel)

theorem prime_44479210368001 : Nat.Prime 44479210368001 := by
  refine lucas_primality _ ((13 : Nat) : ZMod 44479210368001) (pow_eq_one_of_powMod (bits := 48) (by decide) (by decide +kernel)) ?_
  intro q hq hd
  have hd' : q ∣ 2 ^ 10 * 3 * 5 ^ 3 * 19 * 6096383 := by simpa using hd
  simp only [hq.dvd_mul] at hd'
  have cases : q = 2 ∨ q = 3 ∨ q = 5 ∨ q = 19 ∨ q = 6096383 := by
    rcases hd' with (((h | h) | h) | h) | h
    · exact .inl ((Nat.prime_dvd_prime_iff_eq hq (by norm_num)).1 (hq.dvd_of_dvd_pow h))
    · exact .inr (.inl ((Nat.prime_dvd_prime_iff_eq hq (by norm_num)).1 h))
    · exact .inr (.inr (.inl ((Nat.prime_dvd_prime_iff_eq hq (by norm_num)).1 (hq.dvd_of_dvd_pow h))))
    · exact .inr (.inr (.inr (.inl ((Nat.prime_dvd_prime_iff_eq hq (by norm_num)).1 h))))
    · exact .inr (.inr (.inr (.inr ((Nat.prime_dvd_prime_iff_eq hq (by norm_num)).1 h))))
  rcases cases with rfl | rfl | rfl | rfl | rfl <;>
    exact pow_ne_one_of_powMod (bits := 48) (by decide) (by decide) (by decide +kernel)

/-! ### The quadratic extension by a square root of 13 -/

/-- `(x1 + x2 w) (y1 + y2 w)` with `w^2 = 13`, mod `m`. -/
def qmul (m : Nat) (x y : Nat × Nat) : Nat × Nat :=
  ((x.1 * y.1 + 13 * (x.2 * y.2)) % m, (x.1 * y.2 + x.2 * y.1) % m)

/-- `x ^ e` for `e < 2 ^ bits`. -/
def qpow (m : Nat) : (bits : Nat) → Nat × Nat → (e : Nat) → Nat × Nat
  | 0, _, _ => (1, 0)
  | bits + 1, x, e =>
    if e % 2 = 1 then qmul m x (qpow m bits (qmul m x x) (e / 2)) else qpow m bits (qmul m x x) (e / 2)

/-- The extension over a prime field. -/
abbrev Quad (q : Nat) := QuadraticAlgebra (ZMod q) 13 0

/-- A pair of residues as an element of the extension over a divisor's field. -/
def toQuad (q : Nat) (x : Nat × Nat) : Quad q := ⟨x.1, x.2⟩

theorem cast_mod_of_dvd {q m : Nat} (h : q ∣ m) (x : Nat) : ((x % m : Nat) : ZMod q) = x := by
  rw [ZMod.natCast_eq_natCast_iff', Nat.mod_mod_of_dvd _ h]

theorem toQuad_qmul {q m : Nat} (h : q ∣ m) (x y : Nat × Nat) :
    toQuad q (qmul m x y) = toQuad q x * toQuad q y := by
  ext
  · simp only [toQuad, qmul, QuadraticAlgebra.re_mul, cast_mod_of_dvd h]; push_cast; ring
  · simp only [toQuad, qmul, QuadraticAlgebra.im_mul, cast_mod_of_dvd h]; push_cast; ring

theorem toQuad_qpow {q m : Nat} (h : q ∣ m) :
    ∀ bits x e, e < 2 ^ bits → toQuad q (qpow m bits x e) = toQuad q x ^ e
  | 0, x, e, he => by
    have : e = 0 := by omega
    subst this
    rw [pow_zero]
    ext <;> simp [toQuad, qpow, QuadraticAlgebra.re_one, QuadraticAlgebra.im_one]
  | bits + 1, x, e, he => by
    have h2 : e / 2 < 2 ^ bits := by omega
    have ih := toQuad_qpow h bits (qmul m x x) (e / 2) h2
    rw [toQuad_qmul h, ← pow_two, ← pow_mul] at ih
    unfold qpow
    split
    · rw [toQuad_qmul h, ih, ← pow_succ']
      congr 1; omega
    · rw [ih]; congr 1; omega

/-- A power whose first coordinate minus 1 is prime to `m` is not 1 over any prime divisor. -/
theorem toQuad_pow_ne_one {q m bits : Nat} {x : Nat × Nat} {e : Nat} (hq : q.Prime) (h : q ∣ m)
    (he : e < 2 ^ bits) (hc : Nat.Coprime ((qpow m bits x e).1 + m - 1) m) (hm : 0 < m) :
    toQuad q x ^ e ≠ 1 := by
  intro h1
  rw [← toQuad_qpow h bits x e he] at h1
  have hre : ((qpow m bits x e).1 : ZMod q) = 1 := congrArg QuadraticAlgebra.re h1
  have hdvd : q ∣ (qpow m bits x e).1 + m - 1 := by
    rw [← ZMod.natCast_eq_zero_iff, Nat.cast_sub (by omega), Nat.cast_add, hre,
      (ZMod.natCast_eq_zero_iff m q).2 h]
    simp
  exact hq.one_lt.ne' (Nat.dvd_one.1 (hc ▸ Nat.dvd_gcd hdvd h))

/-- The generator: an element of norm 1 whose order is `p + 1`. -/
def generator : Nat × Nat :=
  (96493407675296873963683621011684077305208628326603492878684328277741404159998,
   19298681535059374792736724202336815461041725665320698575736865655548280832000)

/-- The factorisation of `p + 1`. -/
theorem p_add_one : Machine.p + 1 =
    2 ^ 64 * 3 ^ 2 * 5 ^ 3 * 11 * 17 ^ 2 * 31 * 41 * 257 ^ 2 * 61681 * 65537 ^ 2 * 414721 * 4278255361 *
      44479210368001 := by
  decide +kernel

/-- The prime factors of `p + 1`. -/
def factors : List Nat :=
  [2, 3, 5, 11, 17, 31, 41, 257, 61681, 65537, 414721, 4278255361, 44479210368001]

theorem mem_factors {r : Nat} (hr : r.Prime) (hd : r ∣ Machine.p + 1) : r ∈ factors := by
  rw [p_add_one] at hd
  simp only [hr.dvd_mul] at hd
  have key : ∀ {a : Nat}, a.Prime → a ∈ factors → r ∣ a → r ∈ factors := by
    intro a ha hm h
    exact (Nat.prime_dvd_prime_iff_eq hr ha).1 h ▸ hm
  have keyPow : ∀ {a k : Nat}, a.Prime → a ∈ factors → r ∣ a ^ k → r ∈ factors :=
    fun ha hm h => key ha hm (hr.dvd_of_dvd_pow h)
  rcases hd with (((((((((((h | h) | h) | h) | h) | h) | h) | h) | h) | h) | h) | h) | h
  · exact keyPow (by norm_num) (by decide) h
  · exact keyPow (by norm_num) (by decide) h
  · exact keyPow (by norm_num) (by decide) h
  · exact key (by norm_num) (by decide) h
  · exact keyPow (by norm_num) (by decide) h
  · exact key (by norm_num) (by decide) h
  · exact key (by norm_num) (by decide) h
  · exact keyPow (by norm_num) (by decide) h
  · exact key (by norm_num) (by decide) h
  · exact keyPow (by norm_num) (by decide) h
  · exact key (by norm_num) (by decide) h
  · exact key prime_4278255361 (by decide) h
  · exact key prime_44479210368001 (by decide) h

theorem generator_pow : qpow Machine.p 256 generator (Machine.p + 1) = (1, 0) := by decide +kernel

theorem generator_coprime : ∀ r ∈ factors,
    Nat.Coprime ((qpow Machine.p 256 generator ((Machine.p + 1) / r)).1 + Machine.p - 1) Machine.p := by
  decide +kernel

/-- Over a prime divisor of `p` the generator has order `p + 1`. -/
theorem generator_order {q : Nat} (hq : q.Prime) (h : q ∣ Machine.p) :
    orderOf (toQuad q generator) = Machine.p + 1 := by
  refine orderOf_eq_of_pow_and_pow_div_prime (by decide) ?_ ?_
  · rw [← toQuad_qpow h 256 _ _ (by decide), generator_pow]
    ext <;> simp [toQuad, QuadraticAlgebra.re_one, QuadraticAlgebra.im_one]
  · intro r hr hd
    refine toQuad_pow_ne_one (bits := 256) hq h ?_ (generator_coprime r (mem_factors hr hd)) (by decide)
    exact lt_of_le_of_lt (Nat.div_le_self _ _) (by decide)

theorem card_quad (q : Nat) [NeZero q] : Nat.card (Quad q) = q ^ 2 := by
  rw [Nat.card_congr (QuadraticAlgebra.equivProd (13 : ZMod q) 0), Nat.card_prod, Nat.card_zmod, pow_two]

/-- A finite monoid has no element whose order exceeds its size. -/
theorem orderOf_le_natCard {M : Type} [Monoid M] [Finite M] (x : M) : orderOf x ≤ Nat.card M := by
  have := Fintype.ofFinite M
  rw [Nat.card_eq_fintype_card]
  exact Finset.le_card_of_inj_on_range (x ^ ·) (fun _ _ => Finset.mem_univ _) pow_injOn_Iio_orderOf

/-- The SM2 prime is prime. -/
theorem p_prime : Nat.Prime Machine.p := by
  by_contra hnot
  have hq := Nat.minFac_prime (n := Machine.p) (by decide)
  have hd := Nat.minFac_dvd Machine.p
  have hle := Nat.minFac_sq_le_self (n := Machine.p) (by decide) hnot
  have : NeZero (Nat.minFac Machine.p) := ⟨hq.ne_zero⟩
  have hfin : Finite (Quad (Nat.minFac Machine.p)) :=
    Finite.of_equiv _ (QuadraticAlgebra.equivProd (13 : ZMod _) 0).symm
  have ho := orderOf_le_natCard (toQuad (Nat.minFac Machine.p) generator)
  rw [generator_order hq hd, card_quad] at ho
  omega

end Sys2Proof.Laws
end

