-- ==== Sys2Proof/Laws/Arith.lean ====
section
/-! SUPPORT. One spec lemma for each value function of the field unit: its integer value, its range and
its image in `ZMod p` (spec/40_field.md R150 to R167). -/

namespace Sys2Proof.Machine

theorem p_pos : 0 < p := by decide
theorem p_lt : p < 2 ^ 256 := by decide
theorem n_pos : 0 < n := by decide
theorem n_lt : n < 2 ^ 256 := by decide
theorem p_prime : Nat.Prime p := Laws.p_prime

theorem reduceP_toNat (x : Nat) : (reduceP x).toNat = x % p := by
  rw [reduceP, BitVec.toNat_ofNat]
  exact Nat.mod_eq_of_lt (lt_trans (Nat.mod_lt _ p_pos) p_lt)

theorem reduceN_toNat (x : Nat) : (reduceN x).toNat = x % n := by
  rw [reduceN, BitVec.toNat_ofNat]
  exact Nat.mod_eq_of_lt (lt_trans (Nat.mod_lt _ n_pos) n_lt)

theorem addp_toNat (a b : Bignum) : (addp a b).toNat = (a.toNat + b.toNat) % p := reduceP_toNat _

theorem mulp_toNat (a b : Bignum) : (mulp a b).toNat = a.toNat * b.toNat % p := reduceP_toNat _

theorem sqrp_toNat (a : Bignum) : (sqrp a).toNat = a.toNat * a.toNat % p := reduceP_toNat _

theorem modp_toNat (lo hi : Bignum) : (modp lo hi).toNat = (hi.toNat * 2 ^ 256 + lo.toNat) % p :=
  reduceP_toNat _

theorem addn_toNat (a b : Bignum) : (addn a b).toNat = (a.toNat + b.toNat) % n := reduceN_toNat _

/-- A canonical integer residue survives the trip through a bignum. -/
theorem ofNat_emod_toNat (x : Int) : ((BitVec.ofNat 256 (x % p).toNat).toNat : Int) = x % p := by
  have h0 : 0 ≤ x % (p : Int) := Int.emod_nonneg _ (by decide)
  have h1 : x % (p : Int) < p := Int.emod_lt_of_pos _ (by decide)
  have h2 : (x % (p : Int)).toNat < 2 ^ 256 := by
    have := p_lt
    omega
  rw [BitVec.toNat_ofNat, Nat.mod_eq_of_lt h2]
  exact Int.toNat_of_nonneg h0

theorem subp_toInt (a b : Bignum) : ((subp a b).toNat : Int) = ((a.toNat : Int) - b.toNat) % p :=
  ofNat_emod_toNat _

/-! ### Ranges -/

theorem addp_lt (a b : Bignum) : (addp a b).toNat < p := addp_toNat a b ▸ Nat.mod_lt _ p_pos
theorem mulp_lt (a b : Bignum) : (mulp a b).toNat < p := mulp_toNat a b ▸ Nat.mod_lt _ p_pos
theorem sqrp_lt (a : Bignum) : (sqrp a).toNat < p := sqrp_toNat a ▸ Nat.mod_lt _ p_pos
theorem modp_lt (a b : Bignum) : (modp a b).toNat < p := modp_toNat a b ▸ Nat.mod_lt _ p_pos
theorem addn_lt (a b : Bignum) : (addn a b).toNat < n := addn_toNat a b ▸ Nat.mod_lt _ n_pos

theorem subp_lt (a b : Bignum) : (subp a b).toNat < p := by
  have h := subp_toInt a b
  have : ((a.toNat : Int) - b.toNat) % p < p := Int.emod_lt_of_pos _ (by decide)
  omega

/-! ### Images in `ZMod p` -/

/-- The residue class of a bignum. -/
def residue (a : Bignum) : ZMod p := (a.toNat : ZMod p)

/-- Canonical bignums are determined by their residue class (spec/40_field.md R167). -/
theorem residue_inj {a b : Bignum} (ha : a.toNat < p) (hb : b.toNat < p) (h : residue a = residue b) :
    a = b := by
  have := (ZMod.natCast_eq_natCast_iff' _ _ _).1 h
  rw [Nat.mod_eq_of_lt ha, Nat.mod_eq_of_lt hb] at this
  exact BitVec.eq_of_toNat_eq this

@[simp] theorem residue_addp (a b : Bignum) : residue (addp a b) = residue a + residue b := by
  rw [residue, addp_toNat, ZMod.natCast_mod, Nat.cast_add]; rfl

@[simp] theorem residue_mulp (a b : Bignum) : residue (mulp a b) = residue a * residue b := by
  rw [residue, mulp_toNat, ZMod.natCast_mod, Nat.cast_mul]; rfl

@[simp] theorem residue_sqrp (a : Bignum) : residue (sqrp a) = residue a * residue a := by
  rw [residue, sqrp_toNat, ZMod.natCast_mod, Nat.cast_mul]; rfl

@[simp] theorem residue_subp (a b : Bignum) : residue (subp a b) = residue a - residue b := by
  have h : (((subp a b).toNat : Int) : ZMod p) = (((a.toNat : Int) - b.toNat : Int) : ZMod p) := by
    rw [subp_toInt]; exact ZMod.intCast_mod _ _
  simpa [residue] using h

@[simp] theorem residue_small (k : Nat) (h : k < 2 ^ 256) : residue (small k) = (k : ZMod p) := by
  rw [residue, small, BitVec.toNat_ofNat, Nat.mod_eq_of_lt h]

theorem isZeroP_iff (a : Bignum) : isZeroP a = true ↔ residue a = 0 := by
  rw [residue, ZMod.natCast_eq_zero_iff, isZeroP, beq_iff_eq, Nat.dvd_iff_mod_eq_zero]

/-! ### Inversion -/

/-- One division keeps a remainder a multiple of `a`. -/
theorem euclid_step {a : ZMod p} {r0 r1 : Nat} {t0 t1 : Int} (h0 : (r0 : ZMod p) = t0 * a)
    (h1 : (r1 : ZMod p) = t1 * a) :
    ((r0 % r1 : Nat) : ZMod p) = ((t0 - (r0 / r1 : Nat) * t1 : Int) : ZMod p) * a := by
  have hd : ((r1 * (r0 / r1) + r0 % r1 : Nat) : ZMod p) = r0 := by rw [Nat.div_add_mod]
  generalize r0 / r1 = q at hd ⊢
  push_cast at hd ⊢
  rw [h0, h1] at hd
  linear_combination hd

theorem gcd_mod_right (r0 r1 : Nat) : Nat.gcd r1 (r0 % r1) = Nat.gcd r0 r1 := by
  rw [Nat.gcd_comm, ← Nat.gcd_rec, Nat.gcd_comm]

/-- The extended Euclidean algorithm on coprime remainders, both kept multiples of `a`, ends with an
inverse of `a` when two divisions a bit are allowed. -/
theorem euclid_inverse (a : ZMod p) :
    ∀ (k fuel r0 r1 : Nat) (t0 t1 : Int), r1 < r0 → r0 < 2 ^ k → 2 * k ≤ fuel → Nat.gcd r0 r1 = 1 →
      (r0 : ZMod p) = t0 * a → (r1 : ZMod p) = t1 * a →
      (euclid fuel r0 r1 t0 t1 : ZMod p) * a = 1
  | 0, fuel, r0, r1, t0, t1, hlt, hb, _, _, _, _ => by simp at hb; omega
  | k + 1, fuel, r0, r1, t0, t1, hlt, hb, hf, hg, h0, h1 => by
    obtain ⟨fuel, rfl⟩ : ∃ f, fuel = f + 2 := ⟨fuel - 2, by omega⟩
    have step := euclid_step h0 h1
    rw [← gcd_mod_right] at hg
    by_cases hz : r1 = 0
    · subst hz
      have h01 : r0 = 1 := by simpa using hg
      simp [euclid, ← h0, h01]
    by_cases hz2 : r0 % r1 = 0
    · have h11 : r1 = 1 := by simpa [hz2] using hg
      rw [euclid, if_neg hz, euclid, if_pos hz2, ← h1, h11, Nat.cast_one]
    have hpos : 0 < r1 := Nat.pos_of_ne_zero hz
    have hhalf : 2 * (r0 % r1) < r0 := by
      have hd := Nat.div_add_mod r0 r1
      have hq : 1 ≤ r0 / r1 := (Nat.one_le_div_iff hpos).2 hlt.le
      have hm : r0 % r1 < r1 := Nat.mod_lt _ hpos
      nlinarith
    rw [← gcd_mod_right] at hg
    have hrec : euclid (fuel + 2) r0 r1 t0 t1 =
        euclid fuel (r0 % r1) (r1 % (r0 % r1)) (t0 - (r0 / r1 : Nat) * t1)
          (t1 - (r1 / (r0 % r1) : Nat) * (t0 - (r0 / r1 : Nat) * t1)) := by
      rw [euclid, if_neg hz, euclid, if_neg hz2]
    rw [hrec]
    refine euclid_inverse a k fuel _ _ _ _ (Nat.mod_lt _ (Nat.pos_of_ne_zero hz2)) ?_ (by omega) hg step
      (euclid_step h1 step)
    rw [pow_succ] at hb; omega

theorem residue_inverseP {a : Bignum} (h : isZeroP a = false) : residue (inverseP a) * residue a = 1 := by
  have hne : a.toNat % p ≠ 0 := by simpa [isZeroP] using h
  have hinv : residue (inverseP a) = ((euclid 512 p (a.toNat % p) 0 1 : Int) : ZMod p) := by
    have h1 : (((inverseP a).toNat : Int) : ZMod p) = ((euclid 512 p (a.toNat % p) 0 1 % p : Int) : ZMod p) := by
      rw [inverseP, ofNat_emod_toNat]
    rw [ZMod.intCast_mod] at h1
    simpa [residue] using h1
  rw [hinv]
  refine euclid_inverse _ 256 512 _ _ _ _ (Nat.mod_lt _ p_pos) p_lt (by decide) ?_ ?_ ?_
  · rw [← Nat.coprime_iff_gcd_eq_one, p_prime.coprime_iff_not_dvd, Nat.dvd_iff_mod_eq_zero, Nat.mod_mod]
    exact hne
  · simp
  · rw [ZMod.natCast_mod]; simp [residue]

/-- INVP's value on an operand that is not 0 mod p: the inverse, in `[1, p)` (spec/40_field.md R160). -/
theorem inverseP_spec {a : Bignum} (h : isZeroP a = false) :
    1 ≤ (inverseP a).toNat ∧ (inverseP a).toNat < p ∧ a.toNat * (inverseP a).toNat % p = 1 := by
  have hlt : (inverseP a).toNat < p := by
    have h1 := ofNat_emod_toNat (euclid 512 p (a.toNat % p) 0 1)
    have h2 : euclid 512 p (a.toNat % p) 0 1 % (p : Int) < p := Int.emod_lt_of_pos _ (by decide)
    have : ((inverseP a).toNat : Int) < p := by rw [inverseP, h1]; exact h2
    omega
  have hmul : a.toNat * (inverseP a).toNat % p = 1 := by
    have h1 := residue_inverseP h
    rw [mul_comm, residue, residue, ← Nat.cast_mul, ← Nat.cast_one, ZMod.natCast_eq_natCast_iff'] at h1
    rwa [Nat.mod_eq_of_lt (show 1 < p by decide)] at h1
  refine ⟨Nat.pos_of_ne_zero fun h0 => ?_, hlt, hmul⟩
  rw [h0, Nat.mul_zero, Nat.zero_mod] at hmul
  exact absurd hmul (by decide)

/-- The inverse is the only canonical number that multiplies to 1 (spec/40_field.md R160). -/
theorem inverseP_unique {a : Bignum} (h : isZeroP a = false) {x : Nat} (hx : x < p)
    (hm : a.toNat * x % p = 1) : x = (inverseP a).toNat := by
  obtain ⟨_, hlt, h1⟩ := inverseP_spec h
  have hc : Nat.Coprime p a.toNat := by
    rw [p_prime.coprime_iff_not_dvd, Nat.dvd_iff_mod_eq_zero]
    simpa [isZeroP] using h
  have : a.toNat * x ≡ a.toNat * (inverseP a).toNat [MOD p] := by rw [Nat.ModEq, hm, h1]
  have := Nat.ModEq.cancel_left_of_coprime hc this
  rwa [Nat.ModEq, Nat.mod_eq_of_lt hx, Nat.mod_eq_of_lt hlt] at this

end Sys2Proof.Machine
end

