-- ==== Sys2Proof/Laws/State.lean ====
section
/-! SUPPORT. For every update of the state, what it does to every field: true by `rfl`, so that no
later proof unfolds a record update. -/

namespace Sys2Proof.Machine

/-! ### writeB -/

section
variable (s : State) (f : Field) (x : Bignum)

@[simp] theorem State.writeB_b : (s.writeB f x).b = s.b.set f (.of x) := rfl
@[simp] theorem State.writeB_j : (s.writeB f x).j = s.j := rfl
@[simp] theorem State.writeB_v : (s.writeB f x).v = s.v := rfl
@[simp] theorem State.writeB_msg : (s.writeB f x).msg = s.msg := rfl
@[simp] theorem State.writeB_sm3len : (s.writeB f x).sm3len = s.sm3len := rfl
@[simp] theorem State.writeB_enccnt : (s.writeB f x).enccnt = s.enccnt := rfl
@[simp] theorem State.writeB_enctop : (s.writeB f x).enctop = s.enctop := rfl
@[simp] theorem State.writeB_enc : (s.writeB f x).enc = s.enc := rfl
@[simp] theorem State.writeB_ie : (s.writeB f x).ie = s.ie := rfl
@[simp] theorem State.writeB_cmd : (s.writeB f x).cmd = s.cmd := rfl
@[simp] theorem State.writeB_errcode : (s.writeB f x).errcode = s.errcode := rfl
@[simp] theorem State.writeB_cmpres : (s.writeB f x).cmpres = s.cmpres := rfl
@[simp] theorem State.writeB_readData : (s.writeB f x).readData = s.readData := rfl
@[simp] theorem State.writeB_schedule : (s.writeB f x).schedule = s.schedule := rfl
@[simp] theorem State.writeB_epoch : (s.writeB f x).epoch = s.epoch := rfl
@[simp] theorem State.writeB_draws : (s.writeB f x).draws = s.draws := rfl
@[simp] theorem State.writeB_busy : (s.writeB f x).status.busy = s.status.busy := rfl
@[simp] theorem State.writeB_done : (s.writeB f x).status.done = s.status.done := rfl
@[simp] theorem State.writeB_err : (s.writeB f x).status.err = s.status.err := rfl
@[simp] theorem State.writeB_flag : (s.writeB f x).status.flag = s.status.flag := rfl
@[simp] theorem State.writeB_sm3st : (s.writeB f x).status.sm3st = s.status.sm3st := rfl
@[simp] theorem State.writeB_cmdovr : (s.writeB f x).status.cmdovr = s.status.cmdovr := rfl
@[simp] theorem State.writeB_wrbusy : (s.writeB f x).status.wrbusy = s.status.wrbusy := rfl
@[simp] theorem State.writeB_status : (s.writeB f x).status = s.status := rfl

end

/-! ### writeJ -/

section
variable (s : State) (f : Field) (q : Point)

@[simp] theorem State.writeJ_b : (s.writeJ f q).b = s.b := rfl
@[simp] theorem State.writeJ_j : (s.writeJ f q).j = s.j.set (pointIndex f) (.of q) := rfl
@[simp] theorem State.writeJ_v : (s.writeJ f q).v = s.v := rfl
@[simp] theorem State.writeJ_msg : (s.writeJ f q).msg = s.msg := rfl
@[simp] theorem State.writeJ_sm3len : (s.writeJ f q).sm3len = s.sm3len := rfl
@[simp] theorem State.writeJ_enccnt : (s.writeJ f q).enccnt = s.enccnt := rfl
@[simp] theorem State.writeJ_enctop : (s.writeJ f q).enctop = s.enctop := rfl
@[simp] theorem State.writeJ_enc : (s.writeJ f q).enc = s.enc := rfl
@[simp] theorem State.writeJ_ie : (s.writeJ f q).ie = s.ie := rfl
@[simp] theorem State.writeJ_cmd : (s.writeJ f q).cmd = s.cmd := rfl
@[simp] theorem State.writeJ_errcode : (s.writeJ f q).errcode = s.errcode := rfl
@[simp] theorem State.writeJ_cmpres : (s.writeJ f q).cmpres = s.cmpres := rfl
@[simp] theorem State.writeJ_readData : (s.writeJ f q).readData = s.readData := rfl
@[simp] theorem State.writeJ_schedule : (s.writeJ f q).schedule = s.schedule := rfl
@[simp] theorem State.writeJ_epoch : (s.writeJ f q).epoch = s.epoch := rfl
@[simp] theorem State.writeJ_draws : (s.writeJ f q).draws = s.draws := rfl
@[simp] theorem State.writeJ_busy : (s.writeJ f q).status.busy = s.status.busy := rfl
@[simp] theorem State.writeJ_done : (s.writeJ f q).status.done = s.status.done := rfl
@[simp] theorem State.writeJ_err : (s.writeJ f q).status.err = s.status.err := rfl
@[simp] theorem State.writeJ_flag : (s.writeJ f q).status.flag = s.status.flag := rfl
@[simp] theorem State.writeJ_sm3st : (s.writeJ f q).status.sm3st = s.status.sm3st := rfl
@[simp] theorem State.writeJ_cmdovr : (s.writeJ f q).status.cmdovr = s.status.cmdovr := rfl
@[simp] theorem State.writeJ_wrbusy : (s.writeJ f q).status.wrbusy = s.status.wrbusy := rfl
@[simp] theorem State.writeJ_status : (s.writeJ f q).status = s.status := rfl

end

/-! ### writePair -/

section
variable (s : State) (f : Field) (xy : Bignum × Bignum)

@[simp] theorem State.writePair_b : (s.writePair f xy).b = (s.b.set f (.of xy.1)).set (pairNext f) (.of xy.2) := rfl
@[simp] theorem State.writePair_j : (s.writePair f xy).j = s.j := rfl
@[simp] theorem State.writePair_v : (s.writePair f xy).v = s.v := rfl
@[simp] theorem State.writePair_msg : (s.writePair f xy).msg = s.msg := rfl
@[simp] theorem State.writePair_sm3len : (s.writePair f xy).sm3len = s.sm3len := rfl
@[simp] theorem State.writePair_enccnt : (s.writePair f xy).enccnt = s.enccnt := rfl
@[simp] theorem State.writePair_enctop : (s.writePair f xy).enctop = s.enctop := rfl
@[simp] theorem State.writePair_enc : (s.writePair f xy).enc = s.enc := rfl
@[simp] theorem State.writePair_ie : (s.writePair f xy).ie = s.ie := rfl
@[simp] theorem State.writePair_cmd : (s.writePair f xy).cmd = s.cmd := rfl
@[simp] theorem State.writePair_errcode : (s.writePair f xy).errcode = s.errcode := rfl
@[simp] theorem State.writePair_cmpres : (s.writePair f xy).cmpres = s.cmpres := rfl
@[simp] theorem State.writePair_readData : (s.writePair f xy).readData = s.readData := rfl
@[simp] theorem State.writePair_schedule : (s.writePair f xy).schedule = s.schedule := rfl
@[simp] theorem State.writePair_epoch : (s.writePair f xy).epoch = s.epoch := rfl
@[simp] theorem State.writePair_draws : (s.writePair f xy).draws = s.draws := rfl
@[simp] theorem State.writePair_busy : (s.writePair f xy).status.busy = s.status.busy := rfl
@[simp] theorem State.writePair_done : (s.writePair f xy).status.done = s.status.done := rfl
@[simp] theorem State.writePair_err : (s.writePair f xy).status.err = s.status.err := rfl
@[simp] theorem State.writePair_flag : (s.writePair f xy).status.flag = s.status.flag := rfl
@[simp] theorem State.writePair_sm3st : (s.writePair f xy).status.sm3st = s.status.sm3st := rfl
@[simp] theorem State.writePair_cmdovr : (s.writePair f xy).status.cmdovr = s.status.cmdovr := rfl
@[simp] theorem State.writePair_wrbusy : (s.writePair f xy).status.wrbusy = s.status.wrbusy := rfl
@[simp] theorem State.writePair_status : (s.writePair f xy).status = s.status := rfl

end

/-! ### writeSm3 -/

section
variable (s : State) (c : Chain) (len : BitVec 64) (st : Sm3State)

@[simp] theorem State.writeSm3_b : (s.writeSm3 c len st).b = s.b := rfl
@[simp] theorem State.writeSm3_j : (s.writeSm3 c len st).j = s.j := rfl
@[simp] theorem State.writeSm3_v : (s.writeSm3 c len st).v = chainCells c := rfl
@[simp] theorem State.writeSm3_msg : (s.writeSm3 c len st).msg = s.msg := rfl
@[simp] theorem State.writeSm3_sm3len : (s.writeSm3 c len st).sm3len = len := rfl
@[simp] theorem State.writeSm3_enccnt : (s.writeSm3 c len st).enccnt = s.enccnt := rfl
@[simp] theorem State.writeSm3_enctop : (s.writeSm3 c len st).enctop = s.enctop := rfl
@[simp] theorem State.writeSm3_enc : (s.writeSm3 c len st).enc = s.enc := rfl
@[simp] theorem State.writeSm3_ie : (s.writeSm3 c len st).ie = s.ie := rfl
@[simp] theorem State.writeSm3_cmd : (s.writeSm3 c len st).cmd = s.cmd := rfl
@[simp] theorem State.writeSm3_errcode : (s.writeSm3 c len st).errcode = s.errcode := rfl
@[simp] theorem State.writeSm3_cmpres : (s.writeSm3 c len st).cmpres = s.cmpres := rfl
@[simp] theorem State.writeSm3_readData : (s.writeSm3 c len st).readData = s.readData := rfl
@[simp] theorem State.writeSm3_schedule : (s.writeSm3 c len st).schedule = s.schedule := rfl
@[simp] theorem State.writeSm3_epoch : (s.writeSm3 c len st).epoch = s.epoch := rfl
@[simp] theorem State.writeSm3_draws : (s.writeSm3 c len st).draws = s.draws := rfl
@[simp] theorem State.writeSm3_busy : (s.writeSm3 c len st).status.busy = s.status.busy := rfl
@[simp] theorem State.writeSm3_done : (s.writeSm3 c len st).status.done = s.status.done := rfl
@[simp] theorem State.writeSm3_err : (s.writeSm3 c len st).status.err = s.status.err := rfl
@[simp] theorem State.writeSm3_flag : (s.writeSm3 c len st).status.flag = s.status.flag := rfl
@[simp] theorem State.writeSm3_sm3st : (s.writeSm3 c len st).status.sm3st = st := rfl
@[simp] theorem State.writeSm3_cmdovr : (s.writeSm3 c len st).status.cmdovr = s.status.cmdovr := rfl
@[simp] theorem State.writeSm3_wrbusy : (s.writeSm3 c len st).status.wrbusy = s.status.wrbusy := rfl

end

/-! ### writeFlag -/

section
variable (s : State) (x : Bool)

@[simp] theorem State.writeFlag_b : (s.writeFlag x).b = s.b := rfl
@[simp] theorem State.writeFlag_j : (s.writeFlag x).j = s.j := rfl
@[simp] theorem State.writeFlag_v : (s.writeFlag x).v = s.v := rfl
@[simp] theorem State.writeFlag_msg : (s.writeFlag x).msg = s.msg := rfl
@[simp] theorem State.writeFlag_sm3len : (s.writeFlag x).sm3len = s.sm3len := rfl
@[simp] theorem State.writeFlag_enccnt : (s.writeFlag x).enccnt = s.enccnt := rfl
@[simp] theorem State.writeFlag_enctop : (s.writeFlag x).enctop = s.enctop := rfl
@[simp] theorem State.writeFlag_enc : (s.writeFlag x).enc = s.enc := rfl
@[simp] theorem State.writeFlag_ie : (s.writeFlag x).ie = s.ie := rfl
@[simp] theorem State.writeFlag_cmd : (s.writeFlag x).cmd = s.cmd := rfl
@[simp] theorem State.writeFlag_errcode : (s.writeFlag x).errcode = s.errcode := rfl
@[simp] theorem State.writeFlag_cmpres : (s.writeFlag x).cmpres = s.cmpres := rfl
@[simp] theorem State.writeFlag_readData : (s.writeFlag x).readData = s.readData := rfl
@[simp] theorem State.writeFlag_schedule : (s.writeFlag x).schedule = s.schedule := rfl
@[simp] theorem State.writeFlag_epoch : (s.writeFlag x).epoch = s.epoch := rfl
@[simp] theorem State.writeFlag_draws : (s.writeFlag x).draws = s.draws := rfl
@[simp] theorem State.writeFlag_busy : (s.writeFlag x).status.busy = s.status.busy := rfl
@[simp] theorem State.writeFlag_done : (s.writeFlag x).status.done = s.status.done := rfl
@[simp] theorem State.writeFlag_err : (s.writeFlag x).status.err = s.status.err := rfl
@[simp] theorem State.writeFlag_flag : (s.writeFlag x).status.flag = x := rfl
@[simp] theorem State.writeFlag_sm3st : (s.writeFlag x).status.sm3st = s.status.sm3st := rfl
@[simp] theorem State.writeFlag_cmdovr : (s.writeFlag x).status.cmdovr = s.status.cmdovr := rfl
@[simp] theorem State.writeFlag_wrbusy : (s.writeFlag x).status.wrbusy = s.status.wrbusy := rfl

end

/-! ### writeCmpres -/

section
variable (s : State) (w : Word)

@[simp] theorem State.writeCmpres_b : (s.writeCmpres w).b = s.b := rfl
@[simp] theorem State.writeCmpres_j : (s.writeCmpres w).j = s.j := rfl
@[simp] theorem State.writeCmpres_v : (s.writeCmpres w).v = s.v := rfl
@[simp] theorem State.writeCmpres_msg : (s.writeCmpres w).msg = s.msg := rfl
@[simp] theorem State.writeCmpres_sm3len : (s.writeCmpres w).sm3len = s.sm3len := rfl
@[simp] theorem State.writeCmpres_enccnt : (s.writeCmpres w).enccnt = s.enccnt := rfl
@[simp] theorem State.writeCmpres_enctop : (s.writeCmpres w).enctop = s.enctop := rfl
@[simp] theorem State.writeCmpres_enc : (s.writeCmpres w).enc = s.enc := rfl
@[simp] theorem State.writeCmpres_ie : (s.writeCmpres w).ie = s.ie := rfl
@[simp] theorem State.writeCmpres_cmd : (s.writeCmpres w).cmd = s.cmd := rfl
@[simp] theorem State.writeCmpres_errcode : (s.writeCmpres w).errcode = s.errcode := rfl
@[simp] theorem State.writeCmpres_cmpres : (s.writeCmpres w).cmpres = w := rfl
@[simp] theorem State.writeCmpres_readData : (s.writeCmpres w).readData = s.readData := rfl
@[simp] theorem State.writeCmpres_schedule : (s.writeCmpres w).schedule = s.schedule := rfl
@[simp] theorem State.writeCmpres_epoch : (s.writeCmpres w).epoch = s.epoch := rfl
@[simp] theorem State.writeCmpres_draws : (s.writeCmpres w).draws = s.draws := rfl
@[simp] theorem State.writeCmpres_busy : (s.writeCmpres w).status.busy = s.status.busy := rfl
@[simp] theorem State.writeCmpres_done : (s.writeCmpres w).status.done = s.status.done := rfl
@[simp] theorem State.writeCmpres_err : (s.writeCmpres w).status.err = s.status.err := rfl
@[simp] theorem State.writeCmpres_flag : (s.writeCmpres w).status.flag = s.status.flag := rfl
@[simp] theorem State.writeCmpres_sm3st : (s.writeCmpres w).status.sm3st = s.status.sm3st := rfl
@[simp] theorem State.writeCmpres_cmdovr : (s.writeCmpres w).status.cmdovr = s.status.cmdovr := rfl
@[simp] theorem State.writeCmpres_wrbusy : (s.writeCmpres w).status.wrbusy = s.status.wrbusy := rfl
@[simp] theorem State.writeCmpres_status : (s.writeCmpres w).status = s.status := rfl

end

/-! ### writeEnc -/

section
variable (s : State) (cnt top : Nat) (g : Nat → Word)

@[simp] theorem State.writeEnc_b : (s.writeEnc cnt top g).b = s.b := rfl
@[simp] theorem State.writeEnc_j : (s.writeEnc cnt top g).j = s.j := rfl
@[simp] theorem State.writeEnc_v : (s.writeEnc cnt top g).v = s.v := rfl
@[simp] theorem State.writeEnc_msg : (s.writeEnc cnt top g).msg = s.msg := rfl
@[simp] theorem State.writeEnc_sm3len : (s.writeEnc cnt top g).sm3len = s.sm3len := rfl
@[simp] theorem State.writeEnc_enccnt : (s.writeEnc cnt top g).enccnt = BitVec.ofNat 7 cnt := rfl
@[simp] theorem State.writeEnc_enctop : (s.writeEnc cnt top g).enctop = BitVec.ofNat 9 top := rfl
@[simp] theorem State.writeEnc_enc : (s.writeEnc cnt top g).enc = Vector.ofFn fun i : Fin 64 => g i := rfl
@[simp] theorem State.writeEnc_ie : (s.writeEnc cnt top g).ie = s.ie := rfl
@[simp] theorem State.writeEnc_cmd : (s.writeEnc cnt top g).cmd = s.cmd := rfl
@[simp] theorem State.writeEnc_errcode : (s.writeEnc cnt top g).errcode = s.errcode := rfl
@[simp] theorem State.writeEnc_cmpres : (s.writeEnc cnt top g).cmpres = s.cmpres := rfl
@[simp] theorem State.writeEnc_readData : (s.writeEnc cnt top g).readData = s.readData := rfl
@[simp] theorem State.writeEnc_schedule : (s.writeEnc cnt top g).schedule = s.schedule := rfl
@[simp] theorem State.writeEnc_epoch : (s.writeEnc cnt top g).epoch = s.epoch := rfl
@[simp] theorem State.writeEnc_draws : (s.writeEnc cnt top g).draws = s.draws := rfl
@[simp] theorem State.writeEnc_busy : (s.writeEnc cnt top g).status.busy = s.status.busy := rfl
@[simp] theorem State.writeEnc_done : (s.writeEnc cnt top g).status.done = s.status.done := rfl
@[simp] theorem State.writeEnc_err : (s.writeEnc cnt top g).status.err = s.status.err := rfl
@[simp] theorem State.writeEnc_flag : (s.writeEnc cnt top g).status.flag = s.status.flag := rfl
@[simp] theorem State.writeEnc_sm3st : (s.writeEnc cnt top g).status.sm3st = s.status.sm3st := rfl
@[simp] theorem State.writeEnc_cmdovr : (s.writeEnc cnt top g).status.cmdovr = s.status.cmdovr := rfl
@[simp] theorem State.writeEnc_wrbusy : (s.writeEnc cnt top g).status.wrbusy = s.status.wrbusy := rfl
@[simp] theorem State.writeEnc_status : (s.writeEnc cnt top g).status = s.status := rfl

end

/-! ### finish -/

section
variable (s : State) (c : ResultCode)

@[simp] theorem State.finish_b : (s.finish c).b = s.b := rfl
@[simp] theorem State.finish_j : (s.finish c).j = s.j := rfl
@[simp] theorem State.finish_v : (s.finish c).v = s.v := rfl
@[simp] theorem State.finish_msg : (s.finish c).msg = s.msg := rfl
@[simp] theorem State.finish_sm3len : (s.finish c).sm3len = s.sm3len := rfl
@[simp] theorem State.finish_enccnt : (s.finish c).enccnt = s.enccnt := rfl
@[simp] theorem State.finish_enctop : (s.finish c).enctop = s.enctop := rfl
@[simp] theorem State.finish_enc : (s.finish c).enc = s.enc := rfl
@[simp] theorem State.finish_ie : (s.finish c).ie = s.ie := rfl
@[simp] theorem State.finish_cmd : (s.finish c).cmd = s.cmd := rfl
@[simp] theorem State.finish_errcode : (s.finish c).errcode = c.bits := rfl
@[simp] theorem State.finish_cmpres : (s.finish c).cmpres = s.cmpres := rfl
@[simp] theorem State.finish_readData : (s.finish c).readData = s.readData := rfl
@[simp] theorem State.finish_schedule : (s.finish c).schedule = s.schedule := rfl
@[simp] theorem State.finish_epoch : (s.finish c).epoch = s.epoch := rfl
@[simp] theorem State.finish_draws : (s.finish c).draws = s.draws := rfl
@[simp] theorem State.finish_busy : (s.finish c).status.busy = false := rfl
@[simp] theorem State.finish_done : (s.finish c).status.done = true := rfl
@[simp] theorem State.finish_err : (s.finish c).status.err = (s.status.err || c != .ok) := rfl
@[simp] theorem State.finish_flag : (s.finish c).status.flag = s.status.flag := rfl
@[simp] theorem State.finish_sm3st : (s.finish c).status.sm3st = s.status.sm3st := rfl
@[simp] theorem State.finish_cmdovr : (s.finish c).status.cmdovr = s.status.cmdovr := rfl
@[simp] theorem State.finish_wrbusy : (s.finish c).status.wrbusy = s.status.wrbusy := rfl

end

/-! ### openRead -/

section
variable (s : State)

@[simp] theorem State.openRead_b : (s.openRead).b = s.b := rfl
@[simp] theorem State.openRead_j : (s.openRead).j = s.j := rfl
@[simp] theorem State.openRead_v : (s.openRead).v = s.v := rfl
@[simp] theorem State.openRead_msg : (s.openRead).msg = s.msg := rfl
@[simp] theorem State.openRead_sm3len : (s.openRead).sm3len = s.sm3len := rfl
@[simp] theorem State.openRead_enccnt : (s.openRead).enccnt = s.enccnt := rfl
@[simp] theorem State.openRead_enctop : (s.openRead).enctop = s.enctop := rfl
@[simp] theorem State.openRead_enc : (s.openRead).enc = s.enc := rfl
@[simp] theorem State.openRead_ie : (s.openRead).ie = s.ie := rfl
@[simp] theorem State.openRead_cmd : (s.openRead).cmd = s.cmd := rfl
@[simp] theorem State.openRead_errcode : (s.openRead).errcode = s.errcode := rfl
@[simp] theorem State.openRead_cmpres : (s.openRead).cmpres = s.cmpres := rfl
@[simp] theorem State.openRead_readData : (s.openRead).readData = Config.openRead s.draws := rfl
@[simp] theorem State.openRead_schedule : (s.openRead).schedule = s.schedule := rfl
@[simp] theorem State.openRead_epoch : (s.openRead).epoch = s.epoch := rfl
@[simp] theorem State.openRead_draws : (s.openRead).draws = s.draws + 1 := rfl
@[simp] theorem State.openRead_busy : (s.openRead).status.busy = s.status.busy := rfl
@[simp] theorem State.openRead_done : (s.openRead).status.done = s.status.done := rfl
@[simp] theorem State.openRead_err : (s.openRead).status.err = s.status.err := rfl
@[simp] theorem State.openRead_flag : (s.openRead).status.flag = s.status.flag := rfl
@[simp] theorem State.openRead_sm3st : (s.openRead).status.sm3st = s.status.sm3st := rfl
@[simp] theorem State.openRead_cmdovr : (s.openRead).status.cmdovr = s.status.cmdovr := rfl
@[simp] theorem State.openRead_wrbusy : (s.openRead).status.wrbusy = s.status.wrbusy := rfl
@[simp] theorem State.openRead_status : (s.openRead).status = s.status := rfl

end

/-! ### softReset -/

section
variable (s : State)

@[simp] theorem State.softReset_b : (s.softReset).b = s.b := rfl
@[simp] theorem State.softReset_j : (s.softReset).j = s.j := rfl
@[simp] theorem State.softReset_v : (s.softReset).v = s.v := rfl
@[simp] theorem State.softReset_msg : (s.softReset).msg = s.msg := rfl
@[simp] theorem State.softReset_sm3len : (s.softReset).sm3len = 0#64 := rfl
@[simp] theorem State.softReset_enccnt : (s.softReset).enccnt = 0#7 := rfl
@[simp] theorem State.softReset_enctop : (s.softReset).enctop = 0#9 := rfl
@[simp] theorem State.softReset_enc : (s.softReset).enc = Vector.replicate 64 0#32 := rfl
@[simp] theorem State.softReset_ie : (s.softReset).ie = false := rfl
@[simp] theorem State.softReset_cmd : (s.softReset).cmd = 0#32 := rfl
@[simp] theorem State.softReset_errcode : (s.softReset).errcode = 0#4 := rfl
@[simp] theorem State.softReset_cmpres : (s.softReset).cmpres = 0#32 := rfl
@[simp] theorem State.softReset_readData : (s.softReset).readData = s.readData := rfl
@[simp] theorem State.softReset_schedule : (s.softReset).schedule = s.schedule := rfl
@[simp] theorem State.softReset_epoch : (s.softReset).epoch = s.epoch := rfl
@[simp] theorem State.softReset_draws : (s.softReset).draws = s.draws := rfl
@[simp] theorem State.softReset_busy : (s.softReset).status.busy = false := rfl
@[simp] theorem State.softReset_done : (s.softReset).status.done = false := rfl
@[simp] theorem State.softReset_err : (s.softReset).status.err = false := rfl
@[simp] theorem State.softReset_flag : (s.softReset).status.flag = false := rfl
@[simp] theorem State.softReset_sm3st : (s.softReset).status.sm3st = .idle := rfl
@[simp] theorem State.softReset_cmdovr : (s.softReset).status.cmdovr = false := rfl
@[simp] theorem State.softReset_wrbusy : (s.softReset).status.wrbusy = false := rfl

end

/-! ### hardwareReset -/

section
variable (s : State)

@[simp] theorem State.hardwareReset_b : (s.hardwareReset).b = Vector.replicate 16 .uninit := rfl
@[simp] theorem State.hardwareReset_j : (s.hardwareReset).j = Vector.replicate 8 .uninit := rfl
@[simp] theorem State.hardwareReset_v : (s.hardwareReset).v = Vector.replicate 8 .uninit := rfl
@[simp] theorem State.hardwareReset_msg : (s.hardwareReset).msg = Vector.replicate 16 .uninit := rfl
@[simp] theorem State.hardwareReset_sm3len : (s.hardwareReset).sm3len = 0#64 := rfl
@[simp] theorem State.hardwareReset_enccnt : (s.hardwareReset).enccnt = 0#7 := rfl
@[simp] theorem State.hardwareReset_enctop : (s.hardwareReset).enctop = 0#9 := rfl
@[simp] theorem State.hardwareReset_enc : (s.hardwareReset).enc = Vector.replicate 64 0#32 := rfl
@[simp] theorem State.hardwareReset_ie : (s.hardwareReset).ie = false := rfl
@[simp] theorem State.hardwareReset_cmd : (s.hardwareReset).cmd = 0#32 := rfl
@[simp] theorem State.hardwareReset_errcode : (s.hardwareReset).errcode = 0#4 := rfl
@[simp] theorem State.hardwareReset_cmpres : (s.hardwareReset).cmpres = 0#32 := rfl
@[simp] theorem State.hardwareReset_readData : (s.hardwareReset).readData = s.readData := rfl
@[simp] theorem State.hardwareReset_schedule : (s.hardwareReset).schedule = s.schedule := rfl
@[simp] theorem State.hardwareReset_epoch : (s.hardwareReset).epoch = s.epoch := rfl
@[simp] theorem State.hardwareReset_draws : (s.hardwareReset).draws = s.draws := rfl
@[simp] theorem State.hardwareReset_busy : (s.hardwareReset).status.busy = false := rfl
@[simp] theorem State.hardwareReset_done : (s.hardwareReset).status.done = false := rfl
@[simp] theorem State.hardwareReset_err : (s.hardwareReset).status.err = false := rfl
@[simp] theorem State.hardwareReset_flag : (s.hardwareReset).status.flag = false := rfl
@[simp] theorem State.hardwareReset_sm3st : (s.hardwareReset).status.sm3st = .idle := rfl
@[simp] theorem State.hardwareReset_cmdovr : (s.hardwareReset).status.cmdovr = false := rfl
@[simp] theorem State.hardwareReset_wrbusy : (s.hardwareReset).status.wrbusy = false := rfl

end

/-! ### advance -/

section
variable (s : State)

@[simp] theorem State.advance_b : (s.advance).b = s.b := rfl
@[simp] theorem State.advance_j : (s.advance).j = s.j := rfl
@[simp] theorem State.advance_v : (s.advance).v = s.v := rfl
@[simp] theorem State.advance_msg : (s.advance).msg = s.msg := rfl
@[simp] theorem State.advance_sm3len : (s.advance).sm3len = s.sm3len := rfl
@[simp] theorem State.advance_enccnt : (s.advance).enccnt = s.enccnt := rfl
@[simp] theorem State.advance_enctop : (s.advance).enctop = s.enctop := rfl
@[simp] theorem State.advance_enc : (s.advance).enc = s.enc := rfl
@[simp] theorem State.advance_ie : (s.advance).ie = s.ie := rfl
@[simp] theorem State.advance_cmd : (s.advance).cmd = s.cmd := rfl
@[simp] theorem State.advance_errcode : (s.advance).errcode = s.errcode := rfl
@[simp] theorem State.advance_cmpres : (s.advance).cmpres = s.cmpres := rfl
@[simp] theorem State.advance_readData : (s.advance).readData = s.readData := rfl
@[simp] theorem State.advance_schedule : (s.advance).schedule = s.schedule.tail := rfl
@[simp] theorem State.advance_epoch : (s.advance).epoch = if s.hasEvent then s.epoch + 1 else s.epoch := rfl
@[simp] theorem State.advance_draws : (s.advance).draws = s.draws := rfl
@[simp] theorem State.advance_busy : (s.advance).status.busy = s.status.busy := rfl
@[simp] theorem State.advance_done : (s.advance).status.done = s.status.done := rfl
@[simp] theorem State.advance_err : (s.advance).status.err = s.status.err := rfl
@[simp] theorem State.advance_flag : (s.advance).status.flag = s.status.flag := rfl
@[simp] theorem State.advance_sm3st : (s.advance).status.sm3st = s.status.sm3st := rfl
@[simp] theorem State.advance_cmdovr : (s.advance).status.cmdovr = s.status.cmdovr := rfl
@[simp] theorem State.advance_wrbusy : (s.advance).status.wrbusy = s.status.wrbusy := rfl
@[simp] theorem State.advance_status : (s.advance).status = s.status := rfl

end

/-! ### accepted -/

section
variable (s : State) (w : Word)

@[simp] theorem State.accepted_b : (s.accepted w).b = s.b := rfl
@[simp] theorem State.accepted_j : (s.accepted w).j = s.j := rfl
@[simp] theorem State.accepted_v : (s.accepted w).v = s.v := rfl
@[simp] theorem State.accepted_msg : (s.accepted w).msg = s.msg := rfl
@[simp] theorem State.accepted_sm3len : (s.accepted w).sm3len = s.sm3len := rfl
@[simp] theorem State.accepted_enccnt : (s.accepted w).enccnt = s.enccnt := rfl
@[simp] theorem State.accepted_enctop : (s.accepted w).enctop = s.enctop := rfl
@[simp] theorem State.accepted_enc : (s.accepted w).enc = s.enc := rfl
@[simp] theorem State.accepted_ie : (s.accepted w).ie = s.ie := rfl
@[simp] theorem State.accepted_cmd : (s.accepted w).cmd = w := rfl
@[simp] theorem State.accepted_errcode : (s.accepted w).errcode = s.errcode := rfl
@[simp] theorem State.accepted_cmpres : (s.accepted w).cmpres = s.cmpres := rfl
@[simp] theorem State.accepted_readData : (s.accepted w).readData = s.readData := rfl
@[simp] theorem State.accepted_schedule : (s.accepted w).schedule = .run none true false :: s.schedule := rfl
@[simp] theorem State.accepted_epoch : (s.accepted w).epoch = s.epoch := rfl
@[simp] theorem State.accepted_draws : (s.accepted w).draws = s.draws := rfl
@[simp] theorem State.accepted_busy : (s.accepted w).status.busy = true := rfl
@[simp] theorem State.accepted_done : (s.accepted w).status.done = s.status.done := rfl
@[simp] theorem State.accepted_err : (s.accepted w).status.err = s.status.err := rfl
@[simp] theorem State.accepted_flag : (s.accepted w).status.flag = s.status.flag := rfl
@[simp] theorem State.accepted_sm3st : (s.accepted w).status.sm3st = s.status.sm3st := rfl
@[simp] theorem State.accepted_cmdovr : (s.accepted w).status.cmdovr = s.status.cmdovr := rfl
@[simp] theorem State.accepted_wrbusy : (s.accepted w).status.wrbusy = s.status.wrbusy := rfl

end

/-! ### Cells and registers -/

@[simp] theorem BigCell.of_value (x : Bignum) : (BigCell.of x).value = x := rfl
@[simp] theorem BigCell.of_written (x : Bignum) : (BigCell.of x).written = 0xFF#8 := rfl
@[simp] theorem BigCell.of_isWritten (x : Bignum) : (BigCell.of x).isWritten = true := rfl
@[simp] theorem WordCell.of_value (w : Word) : (WordCell.of w).value = w := rfl
@[simp] theorem WordCell.of_written (w : Word) : (WordCell.of w).written = true := rfl
@[simp] theorem PointCell.of_x (q : Point) : (PointCell.of q).x = .of q.x := rfl
@[simp] theorem PointCell.of_y (q : Point) : (PointCell.of q).y = .of q.y := rfl
@[simp] theorem PointCell.of_z (q : Point) : (PointCell.of q).z = .of q.z := rfl
@[simp] theorem PointCell.of_isWritten (q : Point) : (PointCell.of q).isWritten = true := rfl
@[simp] theorem PointCell.of_pointValue (q : Point) : (PointCell.of q).value = q := rfl

/-- A written word is what the host reads (spec/10_state.md R31). -/
theorem WordCell.hostRead_of_written {c : WordCell} (h : c.written = true) (epoch off : Nat) :
    c.hostRead epoch off = c.value := by
  simp [WordCell.hostRead, h]

/-- A written word of a register is what the host reads (spec/10_state.md R53). -/
theorem BigCell.hostRead_of_written {c : BigCell} {k : Nat} (h : c.written.getLsbD k = true)
    (epoch base : Nat) : c.hostRead epoch base k = wordOf c.value k := by
  simp [BigCell.hostRead, h]

/-- The operand of a register just written is what was written. -/
@[simp] theorem State.writeB_readB_self (s : State) (f : Field) (x : Bignum) :
    (s.writeB f x).readB f = x := by
  simp [State.readB]

/-- A register just written has no UNINIT word. -/
@[simp] theorem State.writeB_writtenB_self (s : State) (f : Field) (x : Bignum) :
    (s.writeB f x).writtenB f = true := by
  simp [State.writtenB]

/-- The operand of a point register just written is what was written. -/
@[simp] theorem State.writeJ_readJ_self (s : State) (f : Field) (q : Point) :
    (s.writeJ f q).readJ f = q := by
  simp [State.readJ]

/-- A point register just written has no UNINIT word. -/
@[simp] theorem State.writeJ_writtenJ_self (s : State) (f : Field) (q : Point) :
    (s.writeJ f q).writtenJ f = true := by
  simp [State.writtenJ]

/-- No chaining word is UNINIT exactly when each is written. -/
theorem State.writtenV_iff {s : State} : s.writtenV = true ↔ ∀ i : Fin 8, s.v[i].written = true := by
  simp [State.writtenV]

/-- No buffer word that holds a byte below `c` is UNINIT exactly when each of them is written. -/
theorem State.writtenMsg_iff {s : State} {c : Nat} :
    s.writtenMsg c = true ↔ ∀ i : Fin 16, 4 * i.val < c → s.msg[i].written = true := by
  simp only [State.writtenMsg, List.all_eq_true, List.mem_finRange, forall_const, Bool.or_eq_true,
    decide_eq_true_eq]
  exact forall_congr' fun i => ⟨fun h hi => h.resolve_left (by omega),
    fun h => (Nat.lt_or_ge (4 * i.val) c).elim (.inr ∘ h) .inl⟩

/-- A bignum operand depends on the bignum file alone. -/
theorem State.readB_congr {s t : State} (h : t.b = s.b) (f : Field) : t.readB f = s.readB f := by
  rw [State.readB, h]; rfl

theorem State.writeB_self (s : State) (f : Field) (x : Bignum) : (s.writeB f x).b[f] = .of x := by simp

theorem State.writeB_other (s : State) {f r : Field} (x : Bignum) (h : r ≠ f) :
    (s.writeB f x).b[r] = s.b[r] := by
  simp only [State.writeB_b, Fin.getElem_fin]
  exact Vector.getElem_set_ne _ _ (fun e => h (Fin.ext e.symm))

theorem State.writeJ_self (s : State) (f : Field) (q : Point) :
    (s.writeJ f q).j[pointIndex f] = .of q := by simp

theorem State.writeJ_other (s : State) {f : Field} {r : Fin 8} (q : Point) (h : r ≠ pointIndex f) :
    (s.writeJ f q).j[r] = s.j[r] := by
  simp only [State.writeJ_j, Fin.getElem_fin]
  exact Vector.getElem_set_ne _ _ (fun e => h (Fin.ext e.symm))

/-- The two registers of a pair are different. -/
theorem pairNext_ne (f : Field) : pairNext f ≠ f := by
  revert f; decide

theorem State.writePair_fst (s : State) (f : Field) (xy : Bignum × Bignum) :
    (s.writePair f xy).b[f] = .of xy.1 := by
  rw [State.writePair, State.writeB_other _ _ (pairNext_ne f).symm, State.writeB_self]

theorem State.writePair_snd (s : State) (f : Field) (xy : Bignum × Bignum) :
    (s.writePair f xy).b[pairNext f] = .of xy.2 := State.writeB_self _ _ _

theorem State.writePair_other (s : State) {f r : Field} (xy : Bignum × Bignum) (h : r ≠ f)
    (h' : r ≠ pairNext f) : (s.writePair f xy).b[r] = s.b[r] := by
  rw [State.writePair, State.writeB_other _ _ h', State.writeB_other _ _ h]

/-- Every word of the chaining value is written by an SM3 command. -/
theorem chainCells_written (c : Chain) (i : Fin 8) : (chainCells c)[i].written = true := by
  fin_cases i <;> rfl

@[simp] theorem ResultCode.bits_eq_zero (c : ResultCode) : c.bits = 0#4 ↔ c = .ok := by
  cases c <;> decide

theorem ResultCode.bits_le (c : ResultCode) : c.bits.toNat ≤ 5 := by
  cases c <;> decide

end Sys2Proof.Machine
end

