-- ==== Sys2Proof/Laws/Bus.lean ====
section
/-! SUPPORT. What a host access can do, said once (spec/20_memory.md R80 to R92). -/

namespace Sys2Proof.Machine

/-! ### The register map (spec/10_state.md R40) -/

theorem locate_v (i : Fin 8) : locate (offV i) = .v i := by revert i; decide
theorem locate_msg (i : Fin 16) : locate (offMsg i) = .msg i := by revert i; decide
theorem locate_enc (i : Fin 64) : locate (0x100 + 4 * i) = .enc i := by revert i; decide
theorem locate_big (r : Fin 16) (k : Fin 8) : locate (offB r + 4 * k) = .big r k := by
  revert r k; decide
theorem locate_point (r : Fin 8) (c : Coord) (k : Fin 8) : locate (offJ r c + 4 * k) = .point r c k := by
  cases c <;> revert r k <;> decide
theorem locate_ctrl : locate 0x004 = .ctrl := rfl
theorem locate_status : locate 0x008 = .status := rfl
theorem locate_cmd : locate 0x00C = .cmd := rfl

/-- A reserved offset addresses nothing (R55). -/
theorem locate_of_reserved {off : Nat} (ha : off % 4 = 0) (h : IsReserved off) :
    locate off = .reserved := by
  have all : ∀ k : Fin 1024, IsReserved (4 * k) → locate (4 * k) = .reserved := by
    unfold IsReserved
    decide +kernel
  have hk : off / 4 < 1024 := by unfold IsReserved at h; omega
  have e : 4 * (off / 4) = off := by omega
  simpa only [e] using all ⟨off / 4, hk⟩ (by simpa only [e] using h)

/-- Every V, MSG, ENC, B and J word is data (spec/20_memory.md R83). -/
theorem isData_of_data {off : Nat} (ha : off % 4 = 0) (h : IsReadOnlyData off ∨ IsWritableData off) :
    (locate off).isData = true := by
  have all : ∀ k : Fin 1024, IsReadOnlyData (4 * k) ∨ IsWritableData (4 * k) →
      (locate (4 * k)).isData = true := by
    unfold IsReadOnlyData IsWritableData
    decide +kernel
  have hk : off / 4 < 1024 := by unfold IsReadOnlyData IsWritableData at h; omega
  have e : 4 * (off / 4) = off := by omega
  simpa only [e] using all ⟨off / 4, hk⟩ (by simpa only [e] using h)

/-- A read-only control register takes no write (spec/20_memory.md R83). -/
theorem regWrite_readOnly {s : State} {off : Nat} {w : Word} (h : IsReadOnlyControl off) :
    s.regWrite (locate off) w = s := by
  simp only [IsReadOnlyControl, List.mem_cons, List.not_mem_nil, or_false] at h
  rcases h with h | h | h | h | h | h | h <;> subst h <;> rfl

/-- Past the window there is no register (R40). -/
theorem locate_of_outside {off : Nat} (h : windowSize ≤ off) : locate off = .reserved := by
  have far (k : Nat) (hk : k ≤ windowSize) : (off < k) = False := eq_false (Nat.not_lt.2 (hk.trans h))
  simp only [windowSize] at far
  simp only [locate, far, Nat.reduceLeDiff, if_false]

/-- CTRL is at no other aligned offset (R40). -/
theorem eq_of_locate_ctrl {off : Nat} (ha : off % 4 = 0) (h : locate off = .ctrl) : off = 0x004 := by
  have all : ∀ k : Fin 1024, locate (4 * k) = .ctrl → 4 * k.val = 0x004 := by decide +kernel
  have e : 4 * (off / 4) = off := by omega
  by_cases hk : off / 4 < 1024
  · simpa only [e] using all ⟨off / 4, hk⟩ (by simpa only [e] using h)
  · simp [locate_of_outside (off := off) (by unfold windowSize; omega)] at h

/-! ### Accesses -/

/-- An access answers a next state exactly when it lies in the window (R80). -/
theorem hostAccess_next {a : Access} {s t : State} (h : hostAccess a s = .next t) :
    a.off < windowSize ∧
      ((∃ width off, a = .read width off ∧ t = s.busRead width off) ∨
        (∃ width off w, a = .write width off w ∧ t = s.busWrite width off w)) := by
  unfold hostAccess at h
  split at h
  · rename_i hw
    refine ⟨hw, ?_⟩
    cases a with
    | read width off => exact .inl ⟨width, off, rfl, by simpa using h.symm⟩
    | write width off w => exact .inr ⟨width, off, w, rfl, by simpa using h.symm⟩
  · cases h

/-- An access outside the window faults, and no other access does (R80). -/
theorem hostAccess_fault {a : Access} {s : State} {e : Fault} (h : hostAccess a s = .fault e) :
    windowSize ≤ a.off ∧ e = .outsideWindow a.off := by
  unfold hostAccess at h
  split at h
  · cases h
  · rename_i hw
    exact ⟨Nat.le_of_not_lt hw, by simpa using h.symm⟩

theorem hostAccess_not_refused (a : Access) (s : State) (e : Refusal) : hostAccess a s ≠ .refused e := by
  unfold hostAccess
  split <;> simp

/-- Everything a read can do: the response changes, and nothing else of the block (R92). -/
theorem busRead_cases (s : State) (width off : Nat) :
    s.busRead width off = s.openRead ∨
      (isAligned32 width off = true ∧
        s.busRead width off = { s with readData := s.regRead (locate off) }) := by
  unfold State.busRead
  split
  · rename_i ha
    split
    · exact .inl rfl
    · exact .inr ⟨ha, rfl⟩
  · exact .inl rfl

/-- Everything a write can do (R83). -/
theorem busWrite_cases (s : State) (width off : Nat) (w : Word) :
    s.busWrite width off w = s ∨
      (isAligned32 width off = true ∧ locate off = .cmd ∧ s.status.busy = false ∧
        s.busWrite width off w = { s with cmd := w, status := { s.status with busy := true } }) ∨
      (isAligned32 width off = true ∧ locate off = .cmd ∧ s.status.busy = true ∧
        s.busWrite width off w = { s with status := { s.status with cmdovr := true } }) ∨
      (isAligned32 width off = true ∧ locate off = .ctrl ∧ w.getLsbD 0 = true ∧
        s.busWrite width off w = s.softReset) ∨
      (isAligned32 width off = true ∧ locate off = .ctrl ∧ w.getLsbD 0 = false ∧
        s.busWrite width off w = { s with ie := w.getLsbD 1 }) ∨
      (isAligned32 width off = true ∧ locate off = .status ∧
        s.busWrite width off w = { s with status := s.status.clear w }) ∨
      (isAligned32 width off = true ∧ (locate off).isData = true ∧ s.status.busy = true ∧
        s.busWrite width off w = { s with status := { s.status with wrbusy := true } }) ∨
      (isAligned32 width off = true ∧ (locate off).isData = true ∧ s.status.busy = false ∧
        s.busWrite width off w = s.writeData (locate off) w) := by
  unfold State.busWrite
  by_cases ha : isAligned32 width off = true
  · rw [if_pos ha]
    generalize locate off = l
    cases hb : s.status.busy <;> cases hw : w.getLsbD 0 <;> cases l <;>
      (simp only [State.regWrite, State.writeCmd, State.writeCtrl, Loc.isData, hb, hw, ha]; simp)
  · rw [if_neg ha]
    exact .inl rfl

/-! ### Words of a register (spec/10_state.md R53) -/

/-- The bits of one word of a bignum. -/
theorem getLsbD_wordOf (x : Bignum) (k i : Nat) :
    (wordOf x k).getLsbD i = (decide (i < 32) && x.getLsbD (32 * k + i)) := by
  simp [wordOf, BitVec.getLsbD_extractLsb']

theorem getLsbD_wordMask (k i : Nat) (hi : i < 256) :
    (wordMask k).getLsbD i = decide (32 * k ≤ i ∧ i < 32 * k + 32) := by
  have h : ∀ j : Fin 256, (0xFFFFFFFF#256).getLsbD j = decide (j.val < 32) := by decide +kernel
  simp only [wordMask, BitVec.getLsbD_shiftLeft, hi, decide_true, Bool.true_and]
  by_cases hk : i < 32 * k
  · simp [hk]
  · rw [h ⟨i - 32 * k, by omega⟩]
    simp only [hk, decide_false, Bool.not_false, Bool.true_and, decide_eq_decide]
    omega

theorem getLsbD_withWord (x : Bignum) (k i : Nat) (w : Word) (hi : i < 256) :
    (withWord x k w).getLsbD i =
      if 32 * k ≤ i ∧ i < 32 * k + 32 then w.getLsbD (i - 32 * k) else x.getLsbD i := by
  simp only [withWord, BitVec.getLsbD_or, BitVec.getLsbD_and, BitVec.getLsbD_not,
    getLsbD_wordMask k i hi, BitVec.getLsbD_shiftLeft, BitVec.getLsbD_setWidth, hi]
  by_cases h : 32 * k ≤ i ∧ i < 32 * k + 32
  · have : ¬ i < 32 * k := by omega
    have h2 : i - 32 * k < 256 := by omega
    simp [h, h2]
  · simp only [h, decide_false, Bool.not_false, Bool.and_true, Bool.true_and, if_false, decide_true]
    by_cases hk : i < 32 * k
    · simp [hk]
    · rw [BitVec.getLsbD_of_ge w (i - 32 * k) (by omega)]
      simp

end Sys2Proof.Machine
end

