-- ==== Sys2Proof/Laws/Exec.lean ====
section
/-! SUPPORT. What the completion of a command can do, said once: with written operands it answers a next
state, either the state with the command's destinations written or the state before it, with the
indicators of a completion (spec/60_exceptions.md R401, R402); with an UNINIT operand it faults
(spec/10_state.md R31). -/

namespace Sys2Proof.Machine

/-- The checks of SM3BLK and SM3FIN before any change (spec/43_sm3.md R320, R323). -/
def sm3Check (s : State) (bytes : Nat) : Except ResultCode Unit :=
  if s.status.sm3st ≠ .active then .error .sm3State
  else if lengthOverflows s.sm3len bytes then .error .sm3Len
  else .ok ()

/-- The state with the command's destinations written, or the code it fails with. -/
def effect (i : Instr) (s : State) : Except ResultCode State :=
  match i with
  | .nop => .ok s
  | .addp rd rs1 rs2 => .ok (s.writeB rd (addp (s.readB rs1) (s.readB rs2)))
  | .subp rd rs1 rs2 => .ok (s.writeB rd (subp (s.readB rs1) (s.readB rs2)))
  | .mulp rd rs1 rs2 => .ok (s.writeB rd (mulp (s.readB rs1) (s.readB rs2)))
  | .sqrp rd rs1 => .ok (s.writeB rd (sqrp (s.readB rs1)))
  | .modp rd rs1 rs2 => .ok (s.writeB rd (modp (s.readB rs1) (s.readB rs2)))
  | .invp rd rs1 => (invp (s.readB rs1)).map (s.writeB rd)
  | .addn rd rs1 rs2 => .ok (s.writeB rd (addn (s.readB rs1) (s.readB rs2)))
  | .chkn rs1 => .ok (s.writeFlag (inDomainN (s.readB rs1)))
  | .cmp rs1 rs2 => .ok (s.writeCmpres (compare (s.readB rs1) (s.readB rs2)))
  | .isval rs1 => .ok (s.writeFlag (isValid (s.readB rs1)))
  | .pdbl rd rs1 => .ok (s.writeJ rd (pdblValue (s.readJ rs1)))
  | .padd rd rs1 rs2 => .ok (s.writeJ rd (paddValue (s.readJ rs1) (s.readJ rs2)))
  | .pneg rd rs1 => .ok (s.writeJ rd (pnegValue (s.readJ rs1)))
  | .tojcb rd rs1 rs2 => .ok (s.writeJ rd (tojcbValue (s.readB rs1) (s.readB rs2)))
  | .toaff rd rs1 => (toaffValue (s.readJ rs1)).map (s.writePair rd)
  | .senc rs1 =>
    .ok (s.writeEnc (encodeScalar (s.readB rs1)).length (startingBit (encodeScalar (s.readB rs1)))
      (encEntry (encodeScalar (s.readB rs1))))
  | .dsm rd rs1 rs2 rs3 =>
    (dsmValue (s.readB rs1) (s.readB rs2) (s.readB rs3) (s.readB (pairNext rs3))).map (s.writePair rd)
  | .sm3init => .ok (s.writeSm3 sm3Iv 0#64 .active)
  | .sm3blk =>
    (sm3Check s 64).map fun _ =>
      s.writeSm3 (compress s.readV s.readMsg) (s.sm3len + 64#64) s.status.sm3st
  | .sm3fin imm =>
    (sm3Check s imm).map fun _ =>
      s.writeSm3 (compressPadding s.readV (s.readTail imm) (s.sm3len.toNat + imm))
        (s.sm3len + BitVec.ofNat 64 imm) .final

/-- SM3BLK and SM3FIN as one completion of a checked effect. -/
theorem sm3Command_eq (bytes : Nat) (t s : State) :
    sm3Command bytes t s =
      withOperands (s.status.sm3st != .active || s.writtenV && s.writtenMsg bytes)
        (complete ((sm3Check s bytes).map fun _ => t) s) := by
  unfold sm3Command sm3Check withOperands
  by_cases h : s.status.sm3st = .active
  · cases s.writtenV && s.writtenMsg bytes <;> cases lengthOverflows s.sm3len bytes <;>
      simp [h, complete, raise, succeed, Except.map]
  · simp [h, complete, raise, Except.map]

/-- Every command is one completion of its effect, or the fault of an UNINIT operand. -/
theorem exec_eq (i : Instr) (s : State) :
    exec i s = withOperands (operandsWritten i s) (complete (effect i s) s) := by
  cases i
  case sm3blk => exact sm3Command_eq 64 _ s
  case sm3fin imm => exact sm3Command_eq imm _ s
  all_goals rfl

/-- The codes a failing inversion, projection or SM3 check reports are error codes. -/
theorem invp_error {a : Bignum} {c : ResultCode} (h : invp a = .error c) : c = .inv := by
  unfold invp at h
  split at h <;> simp_all

theorem toaffValue_error {q : Point} {c : ResultCode} (h : toaffValue q = .error c) :
    (c = .inf ∧ q.z = 0#256) ∨ (c = .inv ∧ q.z ≠ 0#256 ∧ isZeroP q.z = true) := by
  unfold toaffValue at h
  split at h
  · simp_all
  · rename_i hz
    right
    unfold invp at h
    split at h <;> rename_i hi <;> split at hi <;> simp_all

theorem sm3Check_error {s : State} {k : Nat} {c : ResultCode} (h : sm3Check s k = .error c) :
    (c = .sm3State ∧ s.status.sm3st ≠ .active) ∨
      (c = .sm3Len ∧ s.status.sm3st = .active ∧ lengthOverflows s.sm3len k = true) := by
  unfold sm3Check at h
  split at h
  · simp_all
  · split at h <;> simp_all

theorem sm3Check_ok {s : State} {k : Nat} {u : Unit} (h : sm3Check s k = .ok u) :
    s.status.sm3st = .active ∧ lengthOverflows s.sm3len k = false := by
  unfold sm3Check at h
  split at h
  · simp_all
  · split at h <;> simp_all

/-- `Except.map` fails exactly as its argument does. -/
theorem map_eq_error {α β : Type} {r : Except ResultCode α} {f : α → β} {c : ResultCode} :
    r.map f = .error c ↔ r = .error c := by
  cases r <;> simp [Except.map]

theorem map_eq_ok {α β : Type} {r : Except ResultCode α} {f : α → β} {y : β} :
    r.map f = .ok y ↔ ∃ x, r = .ok x ∧ f x = y := by
  cases r <;> simp [Except.map]

/-- No command fails with the code OK. -/
theorem effect_error_ne_ok {i : Instr} {s : State} {c : ResultCode} (h : effect i s = .error c) :
    c ≠ .ok := by
  cases i <;> simp only [effect, map_eq_error, reduceCtorEq] at h
  · rw [invp_error h]; decide
  · rcases toaffValue_error h with h | h <;> rw [h.1] <;> decide
  · rcases toaffValue_error h with h | h <;> rw [h.1] <;> decide
  · rcases sm3Check_error h with h | h <;> rw [h.1] <;> decide
  · rcases sm3Check_error h with h | h <;> rw [h.1] <;> decide

/-- A command whose operands are written completes. -/
theorem exec_of_written {i : Instr} {s : State} (h : operandsWritten i s = true) :
    exec i s = complete (effect i s) s := by
  rw [exec_eq, h]; rfl

/-- A command with an UNINIT operand is the model's fault (spec/10_state.md R31, R406). -/
theorem exec_of_uninit {i : Instr} {s : State} (h : operandsWritten i s = false) :
    exec i s = .fault .uninitOperand := by
  rw [exec_eq, h]; rfl

/-- Everything a completion can answer (R401, R402). -/
theorem exec_cases {i : Instr} {s t : State} (h : exec i s = .next t) :
    operandsWritten i s = true ∧
      ((∃ u, effect i s = .ok u ∧ t = u.finish .ok) ∨
        (∃ c, effect i s = .error c ∧ c ≠ .ok ∧ t = s.finish c)) := by
  cases hw : operandsWritten i s with
  | false => rw [exec_of_uninit hw] at h; cases h
  | true =>
    rw [exec_of_written hw] at h
    unfold complete at h
    refine ⟨rfl, ?_⟩
    cases he : effect i s with
    | ok u => rw [he] at h; exact .inl ⟨u, rfl, by simpa using h.symm⟩
    | error c => rw [he] at h; exact .inr ⟨c, rfl, effect_error_ne_ok he, by simpa using h.symm⟩

/-- A command completes exactly when its operands are written. -/
theorem exec_completes_iff (i : Instr) (s : State) :
    (∃ t, exec i s = .next t) ↔ operandsWritten i s = true :=
  ⟨fun ⟨_, h⟩ => (exec_cases h).1, fun h => ⟨_, exec_of_written h⟩⟩

end Sys2Proof.Machine
end

