-- ==== Sys2Proof/Laws/Cycle.lean ====
section
/-! SUPPORT. What a clock cycle can do, said once: every later proof about a step takes its cases from
`runCycle_cases` (spec/20_memory.md R90, spec/60_exceptions.md R407). -/

namespace Sys2Proof.Machine

/-- Everything a completion event can answer. -/
theorem completion_cases {s t : State} (h : completion s = .next t) :
    (∃ i, decode s.cmd = .ok i ∧ exec i s = .next t) ∨
      (∃ e, decode s.cmd = .error e ∧ t = s.finish .illegal) := by
  unfold completion at h
  split at h
  · rename_i i hd
    exact .inl ⟨i, hd, h⟩
  · rename_i e hd
    exact .inr ⟨e, hd, by simpa [raise] using h.symm⟩

/-- A completion event answers a next state unless the command has an UNINIT operand. -/
theorem completion_outcome (s : State) :
    (∃ t, completion s = .next t) ∨
      ∃ i, decode s.cmd = .ok i ∧ operandsWritten i s = false ∧ completion s = .fault .uninitOperand := by
  unfold completion
  split
  · rename_i i hd
    cases hw : operandsWritten i s with
    | true => exact .inl ⟨_, exec_of_written hw⟩
    | false => exact .inr ⟨i, hd, hw, exec_of_uninit hw⟩
  · exact .inl ⟨_, rfl⟩

/-- The second event of a cycle runs when the first answers a next state. -/
theorem andThen_next {r : Result} {f : State → Result} {t : State} (h : andThen r f = .next t) :
    ∃ u, r = .next u ∧ f u = .next t := by
  cases r with
  | next u => exact ⟨u, rfl, h⟩
  | fault e => cases h
  | refused e => cases h

/-- Everything a cycle can do: a hardware reset, nothing, one access, one completion, or an access and a
completion in one of the two orders. -/
theorem runCycle_cases {c : Cycle} {s t : State} (h : runCycle c s = .next t) :
    (c = .reset ∧ t = s.hardwareReset) ∨
      (∃ lat hf, c = .run none lat hf ∧ (s.status.busy && lat) = false ∧ t = s) ∨
      (∃ lat hf, c = .run none lat hf ∧ (s.status.busy && lat) = true ∧ completion s = .next t) ∨
      (∃ a lat hf, c = .run (some a) lat hf ∧ (s.status.busy && lat) = false ∧
        hostAccess a s = .next t) ∨
      (∃ a lat hf u, c = .run (some a) lat hf ∧ (s.status.busy && lat) = true ∧
        accessFirst a hf = true ∧ hostAccess a s = .next u ∧ completion u = .next t) ∨
      (∃ a lat hf u, c = .run (some a) lat hf ∧ (s.status.busy && lat) = true ∧
        accessFirst a hf = false ∧ completion s = .next u ∧ hostAccess a u = .next t) := by
  cases c with
  | reset => exact .inl ⟨rfl, by simpa [runCycle] using h.symm⟩
  | run a lat hf =>
    cases hb : s.status.busy && lat with
    | false =>
      cases a with
      | none => exact .inr (.inl ⟨lat, hf, rfl, hb, by simpa [runCycle, hb] using h.symm⟩)
      | some a => exact .inr (.inr (.inr (.inl ⟨a, lat, hf, rfl, hb, by simpa [runCycle, hb] using h⟩)))
    | true =>
      cases a with
      | none => exact .inr (.inr (.inl ⟨lat, hf, rfl, hb, by simpa [runCycle, hb] using h⟩))
      | some a =>
        cases ho : accessFirst a hf with
        | true =>
          simp only [runCycle, hb, ho, if_true] at h
          obtain ⟨u, h1, h2⟩ := andThen_next h
          exact .inr (.inr (.inr (.inr (.inl ⟨a, lat, hf, u, rfl, hb, ho, h1, h2⟩))))
        | false =>
          simp only [runCycle, hb, ho, if_true, Bool.false_eq_true, if_false] at h
          obtain ⟨u, h1, h2⟩ := andThen_next h
          exact .inr (.inr (.inr (.inr (.inr ⟨a, lat, hf, u, rfl, hb, ho, h1, h2⟩))))

/-- A cycle moves the epoch only by an event that is not a read: nothing of another width or misaligned
does (spec/20_memory.md R90). -/
theorem hasEvent_of_access {s : State} {a : Access} {lat hf : Bool} {rest : List Cycle}
    (hb : s.status.busy = false) (hs : s.schedule = .run (some a) lat hf :: rest) :
    s.hasEvent = a.isWriteEvent := by
  simp [State.hasEvent, State.nextCycle, hs, hb]

/-- While idle a cycle with an access is that access, on the advanced state. -/
theorem step_of_access {s : State} {a : Access} {lat hf : Bool} {rest : List Cycle}
    (hb : s.status.busy = false) (hs : s.schedule = .run (some a) lat hf :: rest) :
    step s = hostAccess a { s with
      schedule := rest
      epoch := if a.isWriteEvent then s.epoch + 1 else s.epoch } := by
  simp [step, runCycle, State.nextCycle, State.advance, hasEvent_of_access hb hs, hs, hb]

/-- A step is the next cycle's events on the advanced state. -/
theorem step_eq (s : State) : step s = runCycle s.nextCycle s.advance := rfl

end Sys2Proof.Machine
end

