-- ==== Sys2Proof/Laws/Decode.lean ====
section
/-! SUPPORT. The small lemmas of the decoder and the encoder (spec/30_encoding.md R111 to R119). -/

namespace Sys2Proof

/-- A slice of a concatenation that lies in the lower part. -/
theorem extractLsb'_append_low {m k : Nat} (x : BitVec m) (y : BitVec k) (start len : Nat)
    (h : start + len ≤ k) : (x ++ y).extractLsb' start len = y.extractLsb' start len := by
  ext i hi
  simp only [BitVec.getElem_extractLsb', BitVec.getLsbD_append]
  rw [if_pos (by omega)]

/-- A slice of a concatenation that lies in the upper part. -/
theorem extractLsb'_append_high {m k : Nat} (x : BitVec m) (y : BitVec k) (start len : Nat) :
    (x ++ y).extractLsb' (k + start) len = x.extractLsb' start len := by
  ext i hi
  simp only [BitVec.getElem_extractLsb', BitVec.getLsbD_append]
  rw [if_neg (by omega)]
  congr 1; omega

/-- The whole of a bit vector as a slice. -/
theorem extractLsb'_self {m : Nat} (x : BitVec m) : x.extractLsb' 0 m = x := by
  ext i hi
  simp

/-- The fields of a packed word are the fields packed into it (R111, R114). -/
@[simp] theorem Fields.ofWord_toWord (f : Fields) : Fields.ofWord f.toWord = f := by
  have hop : f.toWord.extractLsb' 0 8 = f.op := by
    rw [toWord, extractLsb'_append_low _ _ 0 8 (by decide), extractLsb'_self]
  have hrd : f.toWord.extractLsb' 8 4 = BitVec.ofFin (w := 4) f.rd := by
    rw [toWord, extractLsb'_append_high _ _ 0 4, extractLsb'_append_low _ _ 0 4 (by decide), extractLsb'_self]
  have hrs1 : f.toWord.extractLsb' 12 4 = BitVec.ofFin (w := 4) f.rs1 := by
    rw [toWord, extractLsb'_append_high _ _ 4 4, extractLsb'_append_high _ _ 0 4,
      extractLsb'_append_low _ _ 0 4 (by decide), extractLsb'_self]
  have hrs2 : f.toWord.extractLsb' 16 4 = BitVec.ofFin (w := 4) f.rs2 := by
    rw [toWord, extractLsb'_append_high _ _ 8 4, extractLsb'_append_high _ _ 4 4,
      extractLsb'_append_high _ _ 0 4, extractLsb'_append_low _ _ 0 4 (by decide), extractLsb'_self]
  have hrs3 : f.toWord.extractLsb' 20 4 = BitVec.ofFin (w := 4) f.rs3 := by
    rw [toWord, extractLsb'_append_high _ _ 12 4, extractLsb'_append_high _ _ 8 4,
      extractLsb'_append_high _ _ 4 4, extractLsb'_append_high _ _ 0 4,
      extractLsb'_append_low _ _ 0 4 (by decide), extractLsb'_self]
  have himm : f.toWord.extractLsb' 24 6 = BitVec.ofFin (w := 6) f.imm := by
    rw [toWord, extractLsb'_append_high _ _ 16 6, extractLsb'_append_high _ _ 12 6,
      extractLsb'_append_high _ _ 8 6, extractLsb'_append_high _ _ 4 6, extractLsb'_append_high _ _ 0 6,
      extractLsb'_append_low _ _ 0 6 (by decide), extractLsb'_self]
  have hrsv : f.toWord.extractLsb' 30 2 = f.rsv := by
    rw [toWord, extractLsb'_append_high _ _ 22 2, extractLsb'_append_high _ _ 18 2,
      extractLsb'_append_high _ _ 14 2, extractLsb'_append_high _ _ 10 2, extractLsb'_append_high _ _ 6 2,
      extractLsb'_append_high _ _ 0 2, extractLsb'_self]
  rw [ofWord, hop, hrd, hrs1, hrs2, hrs3, himm, hrsv]

/-- Packing the fields of a word gives the word (R111, R114). -/
@[simp] theorem Fields.toWord_ofWord (w : Word) : (Fields.ofWord w).toWord = w := by
  apply BitVec.eq_of_getLsbD_eq
  intro i hi
  simp only [toWord, ofWord, BitVec.ofFin_toFin]
  rw [BitVec.getLsbD_append, BitVec.getLsbD_append, BitVec.getLsbD_append, BitVec.getLsbD_append,
    BitVec.getLsbD_append, BitVec.getLsbD_append]
  simp only [BitVec.getLsbD_extractLsb']
  split_ifs
  all_goals
    first
    | (simp only [Nat.zero_add]; simp; omega)
    | (rw [decide_eq_true (by omega), Bool.true_and]; congr 1; omega)

/-- The packed word as a number (R114). -/
theorem Fields.toWord_toNat (f : Fields) :
    f.toWord.toNat = f.op.toNat + f.rd * 2 ^ 8 + f.rs1 * 2 ^ 12 + f.rs2 * 2 ^ 16 + f.rs3 * 2 ^ 20 +
      f.imm * 2 ^ 24 + f.rsv.toNat * 2 ^ 30 := by
  have append : ∀ {m k : Nat} (x : BitVec m) (y : BitVec k), (x ++ y).toNat = y.toNat + x.toNat * 2 ^ k := by
    intro m k x y
    rw [BitVec.toNat_append, Nat.shiftLeft_eq, Nat.mul_comm, ← Nat.two_pow_add_eq_or_of_lt y.isLt]
    omega
  simp only [toWord, append, BitVec.toNat_ofFin]
  omega

/-- Two words with the same fields are the same word. -/
theorem Fields.ofWord_inj {w w' : Word} (h : Fields.ofWord w = Fields.ofWord w') : w = w' := by
  rw [← Fields.toWord_ofWord w, h, Fields.toWord_ofWord]

@[simp] theorem Op.ofByte_byte (o : Op) : Op.ofByte o.byte = some o := by
  cases o <;> rfl

/-- An opcode read from a byte has that byte. -/
theorem Op.byte_of_ofByte {b : BitVec 8} {o : Op} (h : Op.ofByte b = some o) : o.byte = b := by
  have := List.find?_some h
  simpa using this

@[simp] theorem FieldType.check_unused_zero : FieldType.unused.check 0 = none := rfl

@[simp] theorem FieldType.check_big (f : Field) : FieldType.big.check f = none := rfl

theorem FieldType.check_unused_eq_none {f : Field} : FieldType.unused.check f = none ↔ f = 0 := by
  revert f; decide

theorem FieldType.check_point_eq_none {f : Field} : FieldType.point.check f = none ↔ f.isPoint = true := by
  revert f; decide

theorem FieldType.check_pair_eq_none {f : Field} : FieldType.pair.check f = none ↔ f.isPair = true := by
  revert f; decide

/-- A word is legal for a format when every field passes its check (R117). -/
theorem Format.check_eq_none {m : Format} {f : Fields} :
    m.check f = none ↔ f.rsv = 0#2 ∧ m.rd.check f.rd = none ∧ m.rs1.check f.rs1 = none ∧
      m.rs2.check f.rs2 = none ∧ m.rs3.check f.rs3 = none ∧ m.checkImm f.imm = none := by
  have orElse_none : ∀ (x y : Option Illegal), (x <|> y) = none ↔ x = none ∧ y = none := by
    intro x y; cases x <;> simp
  simp only [Format.check, orElse_none]
  by_cases h : f.rsv = 0#2 <;> simp [h]

@[simp] theorem Instr.fields_op (i : Instr) : i.fields.op = i.op.byte := by
  cases i <;> rfl

/-- What the decoder answers, by the opcode and the format's check (R117). -/
theorem decode_eq_ok {w : Word} {i : Instr} :
    decode w = .ok i ↔ ∃ o, Op.ofByte (Fields.ofWord w).op = some o ∧
      o.format.check (Fields.ofWord w) = none ∧ o.build (Fields.ofWord w) = i := by
  unfold decode
  cases ho : Op.ofByte (Fields.ofWord w).op with
  | none => simp [ho]
  | some o =>
    cases hc : o.format.check (Fields.ofWord w) with
    | none => simp [ho, hc]
    | some e => simp [ho, hc]

end Sys2Proof
end

