-- ==== Sys2Proof/Laws/PerInstr.lean ====
section
/-! SUPPORT. Statements for all instructions, made per instruction: the word of a well-formed
instruction selects its row of the opcode table (spec/30_encoding.md R114, R115). -/

namespace Sys2Proof.Laws.SelectsRow

/-- A well-formed instruction's word selects its own row of the opcode table. -/
def Statement (i : Instr) : Prop :=
  i.wellFormed = true → ∃ r ∈ opcodeTable, r.op = i.op ∧ r.selects (encode i) = true

/-- `and` of packed words, field by field. -/
theorem toWord_and (f m : Fields) : f.toWord &&& m.toWord =
    (f.rsv &&& m.rsv) ++ (BitVec.ofFin (w := 6) f.imm &&& BitVec.ofFin (w := 6) m.imm) ++
      (BitVec.ofFin (w := 4) f.rs3 &&& BitVec.ofFin (w := 4) m.rs3) ++
      (BitVec.ofFin (w := 4) f.rs2 &&& BitVec.ofFin (w := 4) m.rs2) ++
      (BitVec.ofFin (w := 4) f.rs1 &&& BitVec.ofFin (w := 4) m.rs1) ++
      (BitVec.ofFin (w := 4) f.rd &&& BitVec.ofFin (w := 4) m.rd) ++ (f.op &&& m.op) := by
  have h : ∀ {k l : Nat} (a c : BitVec k) (b d : BitVec l), (a ++ b) &&& (c ++ d) = (a &&& c) ++ (b &&& d) :=
    fun _ _ _ _ => BitVec.and_append
  rw [Fields.toWord, Fields.toWord, h, h, h, h, h, h]

/-- A 4-bit field under a mask. -/
def masked (f m : Field) : BitVec 4 := BitVec.ofFin (w := 4) f &&& BitVec.ofFin (w := 4) m

theorem masked_zero_right (f : Field) : masked f 0 = 0#4 := by revert f; decide
theorem masked_zero_left (m : Field) : masked 0 m = 0#4 := by revert m; decide
theorem imm_zero (m : Fin 64) : BitVec.ofFin (w := 6) (0 : Fin 64) &&& BitVec.ofFin (w := 6) m = 0#6 := by
  revert m; decide
theorem masked_point {f : Field} (h : f.isPoint = true) : masked f 8 = 0#4 := by revert f; decide
theorem masked_pair {f : Field} (h : f.isPair = true) : masked f 1 = 0#4 := by revert f; decide

/-- A row selects a word when every register field is 0 under its mask, the immediate too, and the
opcode is the pattern. -/
theorem selects_of_fields (o : Op) (f m : Fields) (hrsv : f.rsv = 0#2) (hop : m.op = 0xFF#8)
    (himm : BitVec.ofFin (w := 6) f.imm &&& BitVec.ofFin (w := 6) m.imm = 0#6)
    (hrd : masked f.rd m.rd = 0#4) (hrs1 : masked f.rs1 m.rs1 = 0#4) (hrs2 : masked f.rs2 m.rs2 = 0#4)
    (hrs3 : masked f.rs3 m.rs3 = 0#4) :
    Row.selects ⟨o, f.op.setWidth 32, m.toWord⟩ f.toWord = true := by
  simp only [masked] at hrd hrs1 hrs2 hrs3
  have hall : f.op &&& 0xFF#8 = f.op := BitVec.and_allOnes
  rw [Row.selects, beq_iff_eq, toWord_and, hrsv, hop, himm, hrd, hrs1, hrs2, hrs3, hall, BitVec.zero_and]
  have : ∀ x : BitVec 8, (0#2 ++ 0#6 ++ 0#4 ++ 0#4 ++ 0#4 ++ 0#4 ++ x : BitVec 32) = x.setWidth 32 := by
    decide +kernel
  exact this f.op

theorem nop : Statement (.nop) := by
  intro _
  refine ⟨⟨.nop, 0x00000001#32, 0xFFFFFFFF#32⟩, by decide, rfl, ?_⟩
  exact selects_of_fields .nop (Instr.fields (.nop)) ⟨0xFF#8, 15, 15, 15, 15, 63, 3#2⟩ rfl rfl (imm_zero _)
    (masked_zero_left _) (masked_zero_left _) (masked_zero_left _) (masked_zero_left _)

theorem addp (rd rs1 rs2 : Field) : Statement (.addp rd rs1 rs2) := by
  intro _
  refine ⟨⟨.addp, 0x00000010#32, 0xFFF000FF#32⟩, by decide, rfl, ?_⟩
  exact selects_of_fields .addp (Instr.fields (.addp rd rs1 rs2)) ⟨0xFF#8, 0, 0, 0, 15, 63, 3#2⟩ rfl rfl (imm_zero _)
    (masked_zero_right _) (masked_zero_right _) (masked_zero_right _) (masked_zero_left _)

theorem subp (rd rs1 rs2 : Field) : Statement (.subp rd rs1 rs2) := by
  intro _
  refine ⟨⟨.subp, 0x00000011#32, 0xFFF000FF#32⟩, by decide, rfl, ?_⟩
  exact selects_of_fields .subp (Instr.fields (.subp rd rs1 rs2)) ⟨0xFF#8, 0, 0, 0, 15, 63, 3#2⟩ rfl rfl (imm_zero _)
    (masked_zero_right _) (masked_zero_right _) (masked_zero_right _) (masked_zero_left _)

theorem mulp (rd rs1 rs2 : Field) : Statement (.mulp rd rs1 rs2) := by
  intro _
  refine ⟨⟨.mulp, 0x00000012#32, 0xFFF000FF#32⟩, by decide, rfl, ?_⟩
  exact selects_of_fields .mulp (Instr.fields (.mulp rd rs1 rs2)) ⟨0xFF#8, 0, 0, 0, 15, 63, 3#2⟩ rfl rfl (imm_zero _)
    (masked_zero_right _) (masked_zero_right _) (masked_zero_right _) (masked_zero_left _)

theorem sqrp (rd rs1 : Field) : Statement (.sqrp rd rs1) := by
  intro _
  refine ⟨⟨.sqrp, 0x00000013#32, 0xFFFF00FF#32⟩, by decide, rfl, ?_⟩
  exact selects_of_fields .sqrp (Instr.fields (.sqrp rd rs1)) ⟨0xFF#8, 0, 0, 15, 15, 63, 3#2⟩ rfl rfl (imm_zero _)
    (masked_zero_right _) (masked_zero_right _) (masked_zero_left _) (masked_zero_left _)

theorem modp (rd rs1 rs2 : Field) : Statement (.modp rd rs1 rs2) := by
  intro _
  refine ⟨⟨.modp, 0x00000014#32, 0xFFF000FF#32⟩, by decide, rfl, ?_⟩
  exact selects_of_fields .modp (Instr.fields (.modp rd rs1 rs2)) ⟨0xFF#8, 0, 0, 0, 15, 63, 3#2⟩ rfl rfl (imm_zero _)
    (masked_zero_right _) (masked_zero_right _) (masked_zero_right _) (masked_zero_left _)

theorem invp (rd rs1 : Field) : Statement (.invp rd rs1) := by
  intro _
  refine ⟨⟨.invp, 0x00000015#32, 0xFFFF00FF#32⟩, by decide, rfl, ?_⟩
  exact selects_of_fields .invp (Instr.fields (.invp rd rs1)) ⟨0xFF#8, 0, 0, 15, 15, 63, 3#2⟩ rfl rfl (imm_zero _)
    (masked_zero_right _) (masked_zero_right _) (masked_zero_left _) (masked_zero_left _)

theorem addn (rd rs1 rs2 : Field) : Statement (.addn rd rs1 rs2) := by
  intro _
  refine ⟨⟨.addn, 0x00000018#32, 0xFFF000FF#32⟩, by decide, rfl, ?_⟩
  exact selects_of_fields .addn (Instr.fields (.addn rd rs1 rs2)) ⟨0xFF#8, 0, 0, 0, 15, 63, 3#2⟩ rfl rfl (imm_zero _)
    (masked_zero_right _) (masked_zero_right _) (masked_zero_right _) (masked_zero_left _)

theorem chkn (rs1 : Field) : Statement (.chkn rs1) := by
  intro _
  refine ⟨⟨.chkn, 0x00000019#32, 0xFFFF0FFF#32⟩, by decide, rfl, ?_⟩
  exact selects_of_fields .chkn (Instr.fields (.chkn rs1)) ⟨0xFF#8, 15, 0, 15, 15, 63, 3#2⟩ rfl rfl (imm_zero _)
    (masked_zero_left _) (masked_zero_right _) (masked_zero_left _) (masked_zero_left _)

theorem cmp (rs1 rs2 : Field) : Statement (.cmp rs1 rs2) := by
  intro _
  refine ⟨⟨.cmp, 0x0000001A#32, 0xFFF00FFF#32⟩, by decide, rfl, ?_⟩
  exact selects_of_fields .cmp (Instr.fields (.cmp rs1 rs2)) ⟨0xFF#8, 15, 0, 0, 15, 63, 3#2⟩ rfl rfl (imm_zero _)
    (masked_zero_left _) (masked_zero_right _) (masked_zero_right _) (masked_zero_left _)

theorem isval (rs1 : Field) : Statement (.isval rs1) := by
  intro _
  refine ⟨⟨.isval, 0x0000001B#32, 0xFFFF0FFF#32⟩, by decide, rfl, ?_⟩
  exact selects_of_fields .isval (Instr.fields (.isval rs1)) ⟨0xFF#8, 15, 0, 15, 15, 63, 3#2⟩ rfl rfl (imm_zero _)
    (masked_zero_left _) (masked_zero_right _) (masked_zero_left _) (masked_zero_left _)

theorem pdbl (rd rs1 : Field) : Statement (.pdbl rd rs1) := by
  intro h
  simp only [Instr.wellFormed, Bool.and_eq_true] at h
  refine ⟨⟨.pdbl, 0x00000020#32, 0xFFFF88FF#32⟩, by decide, rfl, ?_⟩
  exact selects_of_fields .pdbl (Instr.fields (.pdbl rd rs1)) ⟨0xFF#8, 8, 8, 15, 15, 63, 3#2⟩ rfl rfl (imm_zero _)
    (masked_point h.1) (masked_point h.2) (masked_zero_left _) (masked_zero_left _)

theorem padd (rd rs1 rs2 : Field) : Statement (.padd rd rs1 rs2) := by
  intro h
  simp only [Instr.wellFormed, Bool.and_eq_true] at h
  refine ⟨⟨.padd, 0x00000021#32, 0xFFF888FF#32⟩, by decide, rfl, ?_⟩
  exact selects_of_fields .padd (Instr.fields (.padd rd rs1 rs2)) ⟨0xFF#8, 8, 8, 8, 15, 63, 3#2⟩ rfl rfl (imm_zero _)
    (masked_point h.1.1) (masked_point h.1.2) (masked_point h.2) (masked_zero_left _)

theorem pneg (rd rs1 : Field) : Statement (.pneg rd rs1) := by
  intro h
  simp only [Instr.wellFormed, Bool.and_eq_true] at h
  refine ⟨⟨.pneg, 0x00000022#32, 0xFFFF88FF#32⟩, by decide, rfl, ?_⟩
  exact selects_of_fields .pneg (Instr.fields (.pneg rd rs1)) ⟨0xFF#8, 8, 8, 15, 15, 63, 3#2⟩ rfl rfl (imm_zero _)
    (masked_point h.1) (masked_point h.2) (masked_zero_left _) (masked_zero_left _)

theorem tojcb (rd rs1 rs2 : Field) : Statement (.tojcb rd rs1 rs2) := by
  intro h
  simp only [Instr.wellFormed] at h
  refine ⟨⟨.tojcb, 0x00000023#32, 0xFFF008FF#32⟩, by decide, rfl, ?_⟩
  exact selects_of_fields .tojcb (Instr.fields (.tojcb rd rs1 rs2)) ⟨0xFF#8, 8, 0, 0, 15, 63, 3#2⟩ rfl rfl (imm_zero _)
    (masked_point h) (masked_zero_right _) (masked_zero_right _) (masked_zero_left _)

theorem toaff (rd rs1 : Field) : Statement (.toaff rd rs1) := by
  intro h
  simp only [Instr.wellFormed, Bool.and_eq_true] at h
  refine ⟨⟨.toaff, 0x00000024#32, 0xFFFF81FF#32⟩, by decide, rfl, ?_⟩
  exact selects_of_fields .toaff (Instr.fields (.toaff rd rs1)) ⟨0xFF#8, 1, 8, 15, 15, 63, 3#2⟩ rfl rfl (imm_zero _)
    (masked_pair h.1) (masked_point h.2) (masked_zero_left _) (masked_zero_left _)

theorem senc (rs1 : Field) : Statement (.senc rs1) := by
  intro _
  refine ⟨⟨.senc, 0x00000030#32, 0xFFFF0FFF#32⟩, by decide, rfl, ?_⟩
  exact selects_of_fields .senc (Instr.fields (.senc rs1)) ⟨0xFF#8, 15, 0, 15, 15, 63, 3#2⟩ rfl rfl (imm_zero _)
    (masked_zero_left _) (masked_zero_right _) (masked_zero_left _) (masked_zero_left _)

theorem dsm (rd rs1 rs2 rs3 : Field) : Statement (.dsm rd rs1 rs2 rs3) := by
  intro h
  simp only [Instr.wellFormed, Bool.and_eq_true] at h
  refine ⟨⟨.dsm, 0x00000031#32, 0xFF1001FF#32⟩, by decide, rfl, ?_⟩
  exact selects_of_fields .dsm (Instr.fields (.dsm rd rs1 rs2 rs3)) ⟨0xFF#8, 1, 0, 0, 1, 63, 3#2⟩ rfl rfl (imm_zero _)
    (masked_pair h.1) (masked_zero_right _) (masked_zero_right _) (masked_pair h.2)

theorem sm3init : Statement (.sm3init) := by
  intro _
  refine ⟨⟨.sm3init, 0x00000040#32, 0xFFFFFFFF#32⟩, by decide, rfl, ?_⟩
  exact selects_of_fields .sm3init (Instr.fields (.sm3init)) ⟨0xFF#8, 15, 15, 15, 15, 63, 3#2⟩ rfl rfl (imm_zero _)
    (masked_zero_left _) (masked_zero_left _) (masked_zero_left _) (masked_zero_left _)

theorem sm3blk : Statement (.sm3blk) := by
  intro _
  refine ⟨⟨.sm3blk, 0x00000041#32, 0xFFFFFFFF#32⟩, by decide, rfl, ?_⟩
  exact selects_of_fields .sm3blk (Instr.fields (.sm3blk)) ⟨0xFF#8, 15, 15, 15, 15, 63, 3#2⟩ rfl rfl (imm_zero _)
    (masked_zero_left _) (masked_zero_left _) (masked_zero_left _) (masked_zero_left _)

theorem sm3fin (imm : Fin 64) : Statement (.sm3fin imm) := by
  intro _
  refine ⟨⟨.sm3fin, 0x00000042#32, 0xC0FFFFFF#32⟩, by decide, rfl, ?_⟩
  exact selects_of_fields .sm3fin (Instr.fields (.sm3fin imm)) ⟨0xFF#8, 15, 15, 15, 15, 0, 3#2⟩ rfl rfl (by revert imm; decide)
    (masked_zero_left _) (masked_zero_left _) (masked_zero_left _) (masked_zero_left _)

end Sys2Proof.Laws.SelectsRow
end

