-- ==== Sys2Proof/Tests/Slice0.lean ====
section
/-! SUPPORT. The model's own tests. Expected values are the spec's: the words of spec/30_encoding.md R122
and spec/95_test_vectors.md section 2.1, the vectors V-FLD, V-PRD, V-CMP, V-PT, V-ENC, V-DSM, V-SM3 and
V-ST of spec/95_test_vectors.md, and the constants of spec/00_scope.md and spec/43_sm3.md. The theorems
named test_witness_.. show states and operands that meet the hypotheses of the obligation they name. -/

namespace Sys2Proof.Tests

-- One theorem at a time: many kernel evaluations at once take a thread each.
set_option Elab.async false

open Sys2Proof.Machine

/-! ### Constants (spec/00_scope.md R13 to R16) -/

theorem test_negP : negP = 2 ^ 256 - p := by decide
theorem test_negN : negN = 2 ^ 256 - n := by decide
theorem test_p_special_form : p = 2 ^ 256 - 2 ^ 224 - 2 ^ 96 + 2 ^ 64 - 1 := by decide
theorem test_curveA : curveA.toNat = p - 3 := by decide
theorem test_generator_on_curve :
    gy.toNat ^ 2 % p = (gx.toNat ^ 3 + curveA.toNat * gx.toNat + curveB.toNat) % p := by decide +kernel

/-! ### Decoding the words of spec/95_test_vectors.md section 2.1 -/

theorem test_decode_nop : decode 0x00000001#32 = .ok .nop := by decide
theorem test_decode_addp : decode 0x00021310#32 = .ok (.addp 3 1 2) := by decide
theorem test_decode_subp : decode 0x000DEF11#32 = .ok (.subp 15 14 13) := by decide
theorem test_decode_mulp : decode 0x00005512#32 = .ok (.mulp 5 5 0) := by decide
theorem test_decode_sqrp : decode 0x00001413#32 = .ok (.sqrp 4 1) := by decide
theorem test_decode_modp : decode 0x00054014#32 = .ok (.modp 0 4 5) := by decide
theorem test_decode_invp : decode 0x00007715#32 = .ok (.invp 7 7) := by decide
theorem test_decode_addn : decode 0x00010218#32 = .ok (.addn 2 0 1) := by decide
theorem test_decode_chkn : decode 0x00000019#32 = .ok (.chkn 0) := by decide
theorem test_decode_cmp : decode 0x0002101A#32 = .ok (.cmp 1 2) := by decide
theorem test_decode_isval : decode 0x0000701B#32 = .ok (.isval 7) := by decide
theorem test_decode_pdbl : decode 0x00000120#32 = .ok (.pdbl 1 0) := by decide
theorem test_decode_padd : decode 0x00010221#32 = .ok (.padd 2 0 1) := by decide
theorem test_decode_pneg : decode 0x00006722#32 = .ok (.pneg 7 6) := by decide
theorem test_decode_tojcb : decode 0x00010023#32 = .ok (.tojcb 0 0 1) := by decide
theorem test_decode_toaff : decode 0x00007E24#32 = .ok (.toaff 14 7) := by decide
theorem test_decode_senc : decode 0x0000F030#32 = .ok (.senc 15) := by decide
theorem test_decode_dsm : decode 0x00ADCE31#32 = .ok (.dsm 14 12 13 10) := by decide
theorem test_decode_sm3init : decode 0x00000040#32 = .ok .sm3init := by decide
theorem test_decode_sm3blk : decode 0x00000041#32 = .ok .sm3blk := by decide
theorem test_decode_sm3fin : decode 0x37000042#32 = .ok (.sm3fin 55) := by decide

theorem test_illegal_word_1 : decode 0x00000000#32 = .error .reservedOpcode := by decide
theorem test_illegal_word_2 : decode 0x00000002#32 = .error .reservedOpcode := by decide
theorem test_illegal_word_3 : decode 0x000000FF#32 = .error .reservedOpcode := by decide
theorem test_illegal_word_4 : decode 0x40000001#32 = .error .reservedBits := by decide
theorem test_illegal_word_5 : decode 0x80000010#32 = .error .reservedBits := by decide
theorem test_illegal_word_6 : decode 0x00000821#32 = .error .pointField := by decide
theorem test_illegal_word_7 : decode 0x00001124#32 = .error .oddPair := by decide
theorem test_illegal_word_8 : decode 0x01000040#32 = .error .unusedField := by decide
theorem test_illegal_word_9 : decode 0x00100015#32 = .error .unusedField := by decide
theorem test_illegal_word_10 : decode 0x00100019#32 = .error .unusedField := by decide
theorem test_illegal_word_11 : decode 0x00001232#32 = .error .reservedOpcode := by decide
theorem test_illegal_word_12 : decode 0x00000143#32 = .error .reservedOpcode := by decide

/-! ### Well-formedness: an ill-formed term for each check (spec/30_encoding.md R112) -/

theorem test_wellFormed_dsm : (Instr.dsm 14 12 13 10).wellFormed = true := by decide
theorem test_illFormed_pdbl_rd : (Instr.pdbl 8 0).wellFormed = false := by decide
theorem test_illFormed_pdbl_rs1 : (Instr.pdbl 0 8).wellFormed = false := by decide
theorem test_illFormed_padd_rd : (Instr.padd 8 0 0).wellFormed = false := by decide
theorem test_illFormed_padd_rs1 : (Instr.padd 0 15 0).wellFormed = false := by decide
theorem test_illFormed_padd_rs2 : (Instr.padd 0 0 8).wellFormed = false := by decide
theorem test_illFormed_pneg_rd : (Instr.pneg 8 0).wellFormed = false := by decide
theorem test_illFormed_pneg_rs1 : (Instr.pneg 0 9).wellFormed = false := by decide
theorem test_illFormed_tojcb_rd : (Instr.tojcb 8 0 0).wellFormed = false := by decide
theorem test_illFormed_toaff_rd : (Instr.toaff 1 0).wellFormed = false := by decide
theorem test_illFormed_toaff_rs1 : (Instr.toaff 0 8).wellFormed = false := by decide
theorem test_illFormed_dsm_rd : (Instr.dsm 15 0 0 0).wellFormed = false := by decide
theorem test_illFormed_dsm_rs3 : (Instr.dsm 0 0 0 1).wellFormed = false := by decide

/-! ### One command, from its word, on a small state -/

/-- The reset state with some bignum registers written. -/
def withB (l : List (Field × Bignum)) : State := l.foldl (fun s fx => s.writeB fx.1 fx.2) State.reset

/-- The reset state with J0 and J1 written. -/
def withJ (q r : Point) : State := (State.reset.writeJ 0 q).writeJ 1 r

/-- The state an outcome carries. -/
def stateOf (r : Result) : State :=
  match r with
  | .next t => t
  | .fault _ => State.reset
  | .refused _ => State.reset

/-- The state one step after the word of `i` is placed. -/
def run (i : Instr) (s : State) : State := stateOf (step (s.withFetchWord 32 (encode i).toNat))

/-- The state after one cycle that holds the host access `a`. -/
def access (a : Access) (s : State) : State :=
  stateOf (step { s with schedule := [.run (some a) false false] })

-- V-FLD-1, V-FLD-5
theorem test_addp_wraps :
    (run (.addp 3 1 2) (withB [(1, 0xFFFFFFFEFFFFFFFFFFFFFFFFFFFFFFFFFFFFFFFF00000000FFFFFFFFFFFFFFFE#256), (2, 0x1#256)])).b[3].value =
      0x0#256 := by decide +kernel
theorem test_addp_largest :
    (run (.addp 3 1 2) (withB [(1, 0xFFFFFFFFFFFFFFFFFFFFFFFFFFFFFFFFFFFFFFFFFFFFFFFFFFFFFFFFFFFFFFFF#256), (2, 0xFFFFFFFFFFFFFFFFFFFFFFFFFFFFFFFFFFFFFFFFFFFFFFFFFFFFFFFFFFFFFFFF#256)])).b[3].value =
      0x200000000000000000000000000000001FFFFFFFE0000000000000000#256 := by decide +kernel
-- V-FLD-6, V-FLD-9
theorem test_subp_borrows :
    (run (.subp 3 1 2) (withB [(1, 0x0#256), (2, 0x1#256)])).b[3].value =
      0xFFFFFFFEFFFFFFFFFFFFFFFFFFFFFFFFFFFFFFFF00000000FFFFFFFFFFFFFFFE#256 := by decide +kernel
theorem test_subp_largest :
    (run (.subp 3 1 2) (withB [(1, 0x0#256), (2, 0xFFFFFFFFFFFFFFFFFFFFFFFFFFFFFFFFFFFFFFFFFFFFFFFFFFFFFFFFFFFFFFFF#256)])).b[3].value =
      0xFFFFFFFDFFFFFFFFFFFFFFFFFFFFFFFFFFFFFFFE00000001FFFFFFFFFFFFFFFF#256 := by decide +kernel
-- V-FLD-14, V-FLD-37 (aliasing)
theorem test_mulp_largest :
    (run (.mulp 3 1 2) (withB [(1, 0xFFFFFFFFFFFFFFFFFFFFFFFFFFFFFFFFFFFFFFFFFFFFFFFFFFFFFFFFFFFFFFFF#256), (2, 0xFFFFFFFFFFFFFFFFFFFFFFFFFFFFFFFFFFFFFFFFFFFFFFFFFFFFFFFFFFFFFFFF#256)])).b[3].value =
      0x200000002000000010000000100000001000000010000000200000002#256 := by decide +kernel
theorem test_addp_aliases :
    (run (.addp 1 1 1) (withB [(1, 7#256)])).b[1].value = 14#256 := by decide +kernel
-- V-FLD-16, V-FLD-19, V-FLD-20
theorem test_sqrp_folds :
    (run (.sqrp 3 1) (withB [(1, 0x100000000000000000000000000000000#256), (2, 0x0#256)])).b[3].value =
      0x100000000000000000000000000000000FFFFFFFF0000000000000001#256 := by decide +kernel
theorem test_modp_largest :
    (run (.modp 3 1 2) (withB [(1, 0xFFFFFFFFFFFFFFFFFFFFFFFFFFFFFFFFFFFFFFFFFFFFFFFFFFFFFFFFFFFFFFFF#256), (2, 0xFFFFFFFFFFFFFFFFFFFFFFFFFFFFFFFFFFFFFFFFFFFFFFFFFFFFFFFFFFFFFFFF#256)])).b[3].value =
      0x400000002000000010000000100000002FFFFFFFF0000000200000002#256 := by decide +kernel
theorem test_modp_order_of_halves :
    (run (.modp 3 1 2) (withB [(1, 0x0#256), (2, 0x1#256)])).b[3].value =
      0x100000000000000000000000000000000FFFFFFFF0000000000000001#256 := by decide +kernel
-- V-FLD-26, V-FLD-31
theorem test_invp_of_two :
    (run (.invp 3 1) (withB [(1, 0x2#256), (2, 0x0#256)])).b[3].value =
      0x7FFFFFFF7FFFFFFFFFFFFFFFFFFFFFFFFFFFFFFF800000008000000000000000#256 := by decide +kernel
theorem test_invp_of_p :
    let t := run (.invp 3 1) (withB [(1, 0xFFFFFFFEFFFFFFFFFFFFFFFFFFFFFFFFFFFFFFFF00000000FFFFFFFFFFFFFFFF#256), (3, 0x55#256)])
    (t.b[3].value, t.errcode, t.status.err) = (0x55#256, 2#4, true) := by decide +kernel
-- V-FLD-34, V-FLD-36
theorem test_addn_largest :
    (run (.addn 3 1 2) (withB [(1, 0xFFFFFFFFFFFFFFFFFFFFFFFFFFFFFFFFFFFFFFFFFFFFFFFFFFFFFFFFFFFFFFFF#256), (2, 0xFFFFFFFFFFFFFFFFFFFFFFFFFFFFFFFFFFFFFFFFFFFFFFFFFFFFFFFFFFFFFFFF#256)])).b[3].value =
      0x20000000000000000000000011BF84129BC73F5A9588817ED8C557DB8#256 := by decide +kernel
theorem test_addn_of_p_and_max :
    (run (.addn 3 1 2) (withB [(1, 0xFFFFFFFEFFFFFFFFFFFFFFFFFFFFFFFFFFFFFFFF00000000FFFFFFFFFFFFFFFE#256), (2, 0xFFFFFFFFFFFFFFFFFFFFFFFFFFFFFFFFFFFFFFFFFFFFFFFFFFFFFFFFFFFFFFFF#256)])).b[3].value =
      0x10000000000000000000000011BF84128BC73F5AA588817ED8C557DB7#256 := by decide +kernel
-- V-PRD-3, V-PRD-4, V-PRD-1, V-CMP-4, V-CMP-6
theorem test_chkn_below_order :
    (run (.chkn 1) (withB [(1, 0xFFFFFFFEFFFFFFFFFFFFFFFFFFFFFFFF7203DF6B21C6052B53BBF40939D54122#256)])).status.flag = true := by decide +kernel
theorem test_chkn_order :
    (run (.chkn 1) (withB [(1, 0xFFFFFFFEFFFFFFFFFFFFFFFFFFFFFFFF7203DF6B21C6052B53BBF40939D54123#256)])).status.flag = false := by decide +kernel
theorem test_isval_zero :
    (run (.isval 1) (withB [(1, 0#256)])).status.flag = false := by decide +kernel
theorem test_isval_p :
    (run (.isval 1) (withB [(1, 0xFFFFFFFEFFFFFFFFFFFFFFFFFFFFFFFFFFFFFFFF00000000FFFFFFFFFFFFFFFF#256)])).status.flag = true := by decide +kernel
theorem test_cmp_less :
    (run (.cmp 1 2) (withB [(1, 0#256), (2, 0xFFFFFFFFFFFFFFFFFFFFFFFFFFFFFFFFFFFFFFFFFFFFFFFFFFFFFFFFFFFFFFFF#256)])).cmpres = 0xFFFFFFFF#32 := by decide +kernel
theorem test_cmp_greater :
    (run (.cmp 1 2) (withB [(1, 0xFFFFFFFEFFFFFFFFFFFFFFFFFFFFFFFFFFFFFFFF00000000FFFFFFFFFFFFFFFF#256), (2, 0xFFFFFFFEFFFFFFFFFFFFFFFFFFFFFFFF7203DF6B21C6052B53BBF40939D54123#256)])).cmpres = 0x00000001#32 := by decide +kernel
-- V-PT-1, V-PT-8
theorem test_pdbl_generator :
    (run (.pdbl 1 0) (withJ ⟨gx, gy, 1⟩ ⟨0, 0, 0⟩)).j[1].value =
      ⟨0xAAF267193307F0BC2CC50158A859C4D498A95A20C53D7E3E3FE035498A9CC3FB#256,
        0x9BD5CD4DA36E1FF5F34D9133C23ED44F9BB110028C1F5BE8CC53AA8AA621568A#256,
        0x786E6D46E9ECEF38B37B9DC6D6D242A7A1530EFA8C548E7F05BE65CA4273E141#256⟩ := by decide +kernel
theorem test_pdbl_infinity :
    (run (.pdbl 1 0) (withJ ⟨7, 9, 0⟩ ⟨1, 1, 1⟩)).j[1].value = ⟨7, 9, 0⟩ := by decide +kernel
-- V-PT-3, V-PT-9
theorem test_padd_operand_roles :
    (run (.padd 2 1 0) (withJ ⟨gx, gy, 1⟩
      ⟨0xAAF267193307F0BC2CC50158A859C4D498A95A20C53D7E3E3FE035498A9CC3FB#256,
        0x9BD5CD4DA36E1FF5F34D9133C23ED44F9BB110028C1F5BE8CC53AA8AA621568A#256,
        0x786E6D46E9ECEF38B37B9DC6D6D242A7A1530EFA8C548E7F05BE65CA4273E141#256⟩)).j[2].value =
      ⟨0x39F11EA8237B7ADCD38DE8AFA2DB016A1A5C26A2F2EBCEDFC69F39687A92584F#256,
        0xA2C40395FDAFE5B6EB20B5C2C2AF7A4C817205AC4B703DE83724FE37A62E928A#256,
        0x5D12C2723D46D36990833C2CEB44DE636C6452D5754E5BD71C60EE4794C42D64#256⟩ := by decide +kernel
theorem test_padd_infinity :
    (run (.padd 2 0 1) (withJ ⟨7, 9, 0⟩ ⟨gx, gy, 1⟩)).j[2].value = ⟨gx, gy, 1⟩ := by decide +kernel
-- V-PT-5, V-PT-10, V-PT-14
theorem test_pneg_generator :
    (run (.pneg 1 0) (withJ ⟨gx, gy, 1⟩ ⟨0, 0, 0⟩)).j[1].value =
      ⟨gx, 0x43C8C95C0B098863A642311C9496DEAC2F56788239D5B8C0FD20CD1ADEC60F5F#256, 1⟩ := by decide +kernel
theorem test_pneg_zero :
    (run (.pneg 1 0) (withJ ⟨1, 0, 1⟩ ⟨0, 0, 0⟩)).j[1].value = ⟨1, 0, 1⟩ := by decide +kernel
theorem test_tojcb_lifts :
    (run (.tojcb 0 0 1) (withB [(0, 5#256), (1, 7#256)])).j[0].value = ⟨5, 7, 1⟩ := by decide +kernel
-- V-PT-11, V-PT-13
theorem test_toaff_divides :
    let t := run (.toaff 6 0) (withJ ⟨gx, gy, 2⟩ ⟨0, 0, 0⟩)
    (t.b[6].value, t.b[7].value) =
      (0xCCB12B8A47C6604657E641119A8E726523F8C2EF3C9982F91C5691624CD31D31#256,
        0x1786E6D45E9ECEF38B37B9DC6D6D242A7A1530EF98C548E8005BE65CA4273E14#256) := by decide +kernel
theorem test_toaff_of_p :
    (run (.toaff 6 0) (withJ ⟨gx, gy, 0xFFFFFFFEFFFFFFFFFFFFFFFFFFFFFFFFFFFFFFFF00000000FFFFFFFFFFFFFFFF#256⟩ ⟨0, 0, 0⟩)).errcode = 2#4 := by decide +kernel
-- V-ENC-12, V-ENC-15
theorem test_senc_three_digits :
    let t := run (.senc 1) (withB [(1, 0x12345#256)])
    (t.enccnt, t.enctop, t.enc[0], t.enc[1], t.enc[2]) =
      (3#7, 13#9, 0x00000005#32, 0x0006000D#32, 0x000D0009#32) := by decide +kernel
theorem test_senc_flushes_carry :
    let t := run (.senc 1) (withB [(1, 0xF800000000000000000000000000000000000000000000000000000000000000#256)])
    (t.enccnt, t.enctop, t.enc[0], t.enc[1], t.enc[2]) =
      (2#7, 256#9, 0x00FB00FF#32, 0x01000001#32, 0x00000000#32) := by decide +kernel
-- V-DSM-6, V-DSM-4
theorem test_dsm_thirteen :
    let t := run (.dsm 6 0 1 4) (withB [(0, 3#256), (1, 5#256),
      (4, 0x56CEFD60D7C87C000D58EF57FA73BA4D9C0DFA08C08A7331495C2E1DA3F2BD52#256),
      (5, 0x31B7E7E6CC8189F668535CE0F8EAF1BD6DE84C182F6C8E716F780D3A970A23C3#256)])
    (t.b[6].value, t.b[7].value) =
      (0x952072D6FF9C65BDFA804513275F58AA7BEA65C6421E189E2B834F1D509B9CD0#256,
        0xE6BB9804458BB70F1A473F8D9748F23858D1434AE934BA7503891E105E009B00#256) := by decide +kernel
theorem test_dsm_meets_equal_points :
    (run (.dsm 6 0 1 4) (withB [(0, 1#256), (1, 1#256), (4, gx), (5, gy)])).errcode = 3#4 := by decide +kernel
-- V-SM3-18; R321
/-- The reset state with an active SM3 context of `len` bytes and the words of `m` in the buffer, the other
buffer words UNINIT. -/
def hashing (len : BitVec 64) (m : List Word) : State :=
  { State.reset.writeSm3 sm3Iv len .active with
    msg := Vector.ofFn fun i => (m[i.val]?.map WordCell.of).getD .uninit }

/-- A full block of zero words. -/
def zeros : List Word := List.replicate 16 0#32

theorem test_sm3init :
    let t := run .sm3init State.reset
    (t.readV, t.sm3len, t.status.sm3st) = (sm3Iv, 0#64, .active) := by decide +kernel
-- V-SM3-5 (the chaining value after SM3BLK), V-SM3-14
theorem test_sm3blk_abcd :
    let t := run .sm3blk (hashing 0 (List.replicate 16 0x61626364#32))
    (t.readV, t.sm3len) =
      (⟨0x5950DE81, 0x468664EB, 0x42FD4C86, 0x1E7CA00A, 0xC0A5910B, 0xAE9A55EA, 0x1ADB8D17, 0x763CA222⟩,
        64#64) := by decide +kernel
theorem test_sm3blk_idle :
    (run .sm3blk State.reset).errcode = 4#4 := by decide +kernel
-- R31, R406, I-11, R453
theorem test_uninit_operand_faults : exec (.cmp 0 0) State.reset = .fault .uninitOperand := rfl
theorem test_uninit_point_word_faults :
    exec (.pneg 1 0) { State.reset with j := State.reset.j.set 0 ⟨.of 1, .of 2, ⟨3, 0x7F#8⟩⟩ } =
      .fault .uninitOperand := rfl
theorem test_uninit_block_faults : exec .sm3blk (hashing 0 [1#32]) = .fault .uninitOperand := rfl
-- L1-1, P3 (the digest of "abc", MSG1 to MSG15 UNINIT), V-SM3-13 (the padding of a whole block)
theorem test_sm3fin_abc :
    let t := run (.sm3fin 3) (hashing 0 [0x61626300#32])
    (t.readV, t.sm3len, t.status.sm3st) =
      (⟨0x66C7F0F4, 0x62EEEDD9, 0xD1F2D46B, 0xDC10E4E2, 0x4167C487, 0x5CF2F7A2, 0x297DA02B, 0x8F4BA8E0⟩,
        3#64, .final) := by decide +kernel
theorem test_sm3fin_two_blocks :
    (pad (List.replicate 56 0x61#8) 56).map List.length = [16, 16] ∧
      (pad (List.replicate 56 0x61#8) 56).flatten.drop 14 =
        [0x80000000#32, 0#32] ++ List.replicate 14 0#32 ++ [0#32, 0x1C0#32] := by decide +kernel
theorem test_nop_completes :
    let t := run .nop State.reset
    (t.status.word, t.errcode) = (0x00000002#32, 0#4) := by decide +kernel
theorem test_sm3_constants :
    (sm3K 0, sm3K 16, sm3K 63) = (0x79CC4519#32, 0x9D8A7A87#32, 0x3D43CEC5#32) := by decide +kernel

/-! ### Bus, status and reset (spec/95_test_vectors.md section 2.7) -/

/-- A running NOP. -/
def busy : State := { State.reset with cmd := 1#32, status := { Status.reset with busy := true } }

-- V-ST-1
theorem test_id_reads :
    (access (.read 32 0x000) State.reset).readData = 0x534D3201#32 := by decide +kernel
-- V-ST-2, V-ST-4
theorem test_irq_on_completion :
    let t := run .nop { State.reset with ie := true }
    (t.irq, t.status.word) = (true, 0x00000002#32) := by decide +kernel
theorem test_error_is_sticky :
    (run .nop (run (.invp 1 0) (withB [(0, 0#256)]))).status.word = 0x00000006#32 := by decide +kernel
-- V-ST-7
theorem test_soft_reset_discards_ie :
    let t := access (.write 32 0x004 3#32) { busy with ie := true }
    (t.ie, t.status, t.cmd) = (false, Status.reset, 0#32) := by decide +kernel
-- V-ST-8, V-ST-9, V-ST-10
theorem test_cmd_dropped :
    let t := access (.write 32 0x00C 0x40#32) busy
    (t.cmd, t.status.word) = (1#32, 0x00000041#32) := by decide +kernel
theorem test_data_write_dropped :
    let t := access (.write 32 0x400 5#32) busy
    (t.b[0], t.status.word) = (BigCell.uninit, 0x00000081#32) := by decide +kernel
theorem test_status_w1c :
    (access (.write 32 0x008 0xC6#32)
      { State.reset with status := { Status.reset with done := true, err := true, cmdovr := true, wrbusy := true } }).status =
      Status.reset := by decide +kernel
-- V-ST-12; spec/10_state.md R54
theorem test_reserved_reads_zero :
    (access (.read 32 0x900) { State.reset with readData := 7 }).readData = 0#32 := by decide +kernel
theorem test_point_word :
    let t := access (.write 32 0x7C0 0xABCD#32) State.reset
    (t.j[4].z.written, t.j[4].z.value, t.j[4].y.written) = (0x01#8, 0xABCD#256, 0x00#8) := by decide +kernel

/-! ### Witnesses: the hypotheses of each obligation are met, each clause at its boundary -/

/-- The next instruction's word placed, with BUSY set and the given cycles to come. -/
def running (w : Word) (cycles : List Cycle) : State :=
  { State.reset with cmd := w, status := { Status.reset with busy := true }, schedule := cycles }

/-- J0 holds `q` and J1 holds `r`: the operands a point command reads. -/
def holdsJ (q r : Point) : Bool :=
  (withJ q r).writtenJ 0 && (withJ q r).writtenJ 1 && (withJ q r).readJ 0 == q && (withJ q r).readJ 1 == r

theorem test_witness_DecodeOfEncodeIsIdentity : (Instr.padd 7 6 5).wellFormed = true := by decide

theorem test_witness_EncodeOfDecodeIsIdentity :
    ∃ i, decode 0x3F000042#32 = .ok i := ⟨.sm3fin 63, by decide⟩

theorem test_witness_DecodeAgreesWithOpcodeTable :
    (∃ i, decode 0x00ADCE31#32 = .ok i) ∧ (∃ e, decode 0x00000143#32 = .error e) ∧
      (opcodeTable.all fun r => !r.selects 0x00000143#32) = true :=
  ⟨⟨.dsm 14 12 13 10, by decide⟩, ⟨.reservedOpcode, by decide⟩, by decide⟩

theorem test_witness_StepCompletesDecodedCommand :
    ((running 1#32 []).status.busy = true ∧ decode (running 1#32 []).cmd = .ok .nop ∧
      (running 1#32 []).schedule = []) ∧
    (running 1#32 [.run none true true, .reset]).schedule = .run none true true :: [.reset] ∧
    (0x40 : Nat) < 2 ^ 32 ∧ decodeTableWord 32 0x40 = some .sm3init := by decide

theorem test_witness_IllegalWordChangesOnlyIndicators :
    (running 0#32 []).status.busy = true ∧ decode (running 0#32 []).cmd = .error .reservedOpcode ∧
      (running 0#32 []).schedule = [] := by decide

theorem test_witness_CmdRegisterAcceptsWhileIdle :
    State.reset.status.busy = false ∧ busy.status.busy = true ∧ decode 0x41#32 = .ok .sm3blk := by decide

theorem test_witness_LatencyDoesNotChangeTheResult :
    let zero := { State.reset with schedule := [.run (some (.write 32 0x00C 1#32)) false false,
      .run none true false] }
    let two := { State.reset with schedule := [.run (some (.write 32 0x00C 1#32)) true true,
      .run none false false, .run none false false, .run none true false, .reset] }
    zero.status.busy = false ∧ zero.schedule = .run (some (.write 32 0x00C 1#32)) false false ::
      (List.replicate 0 (.run none false false) ++ .run none true false :: []) ∧
    two.status.busy = false ∧ two.schedule = .run (some (.write 32 0x00C 1#32)) true true ::
      (List.replicate 2 (.run none false false) ++ .run none true false :: [.reset]) := by decide

theorem test_witness_CompletionSetsIndicators : ∃ t, exec .nop State.reset = .next t := ⟨_, rfl⟩

theorem test_witness_NoCommandTouchesHostSide : ∃ t, exec .sm3init State.reset = .next t := ⟨_, rfl⟩

/-- The code a command completes with. -/
def code (i : Instr) (s : State) : BitVec 4 := (stateOf (exec i s)).errcode

/-- What `stateOf` reads from a command is the next state it answers. -/
theorem exec_stateOf (i : Instr) (s : State) (h : operandsWritten i s = true) :
    exec i s = .next (stateOf (exec i s)) := by
  rw [exec_of_written h]; rfl

theorem test_witness_FailingCommandWritesNothing :
    (∃ t, exec .sm3blk State.reset = .next t ∧ t.errcode ≠ 0#4) ∧
    (∃ t, completion (running 0#32 []) = .next t ∧ t.errcode ≠ 0#4) ∧
    ∃ t, completion (running 0x41#32 []) = .next t ∧ t.errcode ≠ 0#4 :=
  ⟨⟨_, exec_stateOf _ _ rfl, by decide⟩, ⟨_, rfl, by decide⟩, _,
    exec_stateOf .sm3blk (running 0x41#32 []) rfl, by decide⟩

theorem test_witness_OnlyNamedCommandsFail :
    code (.invp 1 0) (withB [(0, 0#256)]) = 2#4 ∧
    code (.toaff 2 0) (withJ ⟨1, 1, BitVec.ofNat 256 p⟩ ⟨0, 0, 0⟩) = 2#4 ∧
    code (.toaff 2 0) (withJ ⟨1, 1, 0⟩ ⟨0, 0, 0⟩) = 3#4 ∧
    code (.dsm 6 0 1 4) (withB [(0, 0#256), (1, 0#256), (4, 5#256), (5, 7#256)]) = 3#4 ∧
    code .sm3blk State.reset = 4#4 ∧ code (.sm3fin 0) State.reset = 4#4 ∧
    code .sm3blk (hashing 0xFFFFFFFFFFFFFFC0#64 zeros) = 5#4 ∧
    code (.sm3fin 1) (hashing 0xFFFFFFFFFFFFFFFF#64 [1#32]) = 5#4 := by decide +kernel

theorem test_witness_DestinationsHaveNamedWriters :
    (stateOf (exec (.chkn 0) (withB [(0, 1#256)]))).status.flag = true ∧
    (stateOf (exec (.cmp 0 1) (withB [(0, 1#256), (1, 2#256)]))).cmpres ≠ 0#32 ∧
    (stateOf (exec (.senc 0) (withB [(0, 1#256)]))).enccnt ≠ 0#7 ∧
    (stateOf (exec .sm3init State.reset)).v ≠ State.reset.v ∧
    (stateOf (exec .sm3init State.reset)).status.sm3st ≠ State.reset.status.sm3st ∧
    (stateOf (exec (.pneg 2 0) (withJ ⟨1, 2, 3⟩ ⟨0, 0, 0⟩))).j ≠ (withJ ⟨1, 2, 3⟩ ⟨0, 0, 0⟩).j ∧
    (stateOf (exec (.addp 2 0 1) (withB [(0, 1#256), (1, 2#256)]))).b ≠
      (withB [(0, 1#256), (1, 2#256)]).b := by decide +kernel

theorem test_witness_CompletionOrderWithinOneCycle :
    let s := running 0x41#32 [.run (some (.write 32 0x008 0xC6#32)) true false]
    let r := running 0x40#32 [.run (some (.write 32 0x004 3#32)) true true]
    operandsWritten .sm3blk s = true ∧ operandsWritten .sm3init r = true ∧
    s.status.busy = true ∧ s.schedule = [.run (some (.write 32 0x008 0xC6#32)) true false] ∧
      (stateOf (step s)).errcode ≠ 0#4 ∧ (stateOf (step s)).status.word = 0x6#32 ∧
      r.status.busy = true ∧ (3#32).getLsbD 0 = true ∧
      r.schedule = [.run (some (.write 32 0x004 3#32)) true true] ∧
      (stateOf (step r)).status = Status.reset ∧ (stateOf (step r)).readV = sm3Iv := by decide +kernel

theorem test_witness_DroppedAndIgnoredDataWrites :
    busy.status.busy = true ∧ State.reset.status.busy = false ∧
    IsReadOnlyData 0x040 ∧ IsReadOnlyData 0x05C ∧ IsReadOnlyData 0x100 ∧ IsReadOnlyData 0x1FC ∧
    IsWritableData 0x080 ∧ IsWritableData 0x0BC ∧ IsWritableData 0x400 ∧ IsWritableData 0x8FC ∧
    (stateOf (hostAccess (.write 32 0x8FC 1#32) busy)).status.wrbusy = true ∧
    (stateOf (hostAccess (.write 32 0x1FC 1#32) State.reset)) = State.reset := by
  unfold IsReadOnlyData IsWritableData
  decide +kernel

theorem test_witness_BusyAccessesKeepTheCommand :
    busy.status.busy = true ∧ (Access.write 32 0x004 2#32).isSoftReset = false ∧
      ∃ t, hostAccess (.write 32 0x004 2#32) busy = .next t := ⟨rfl, by decide, _, rfl⟩

theorem test_witness_ReadsHaveNoSideEffect :
    (∃ t, hostAccess (.read 32 0x000) State.reset = .next t) ∧
      ¬ (State.reset.status.busy = true ∧ (locate 0x000).isData = true) ∧
      (∃ t, hostAccess (.read 32 0x400) State.reset = .next t) ∧
      ¬ (State.reset.status.busy = true ∧ (locate 0x400).isData = true) :=
  ⟨⟨_, rfl⟩, by decide, ⟨_, rfl⟩, by decide⟩

/-- An UNINIT word read before and after an ignored write. -/
def readsAroundIgnoredWrite : State :=
  { State.reset with schedule := [.run (some (.read 32 0x400)) false true,
      .run (some (.write 16 0x400 7#32)) true true, .run (some (.read 32 0x400)) false false] }

theorem test_witness_ReadsHaveNoSideEffect_twice :
    readsAroundIgnoredWrite.status.busy = false ∧ (16 ≠ 32 ∨ 0x400 % 4 ≠ 0) ∧
      ∃ t u v, step readsAroundIgnoredWrite = .next t ∧ step t = .next u ∧ step u = .next v :=
  ⟨rfl, by decide, _, _, _, rfl, rfl, rfl⟩

-- R81, R82, R90: an ignored write is no event, a write of a reserved offset is one.
theorem test_ignored_write_is_no_event :
    let after (width off : Nat) := (stateOf (step { State.reset with
      schedule := [.run (some (.write width off 0#32)) false true] })).epoch
    (after 8 0x400, after 32 0x402, after 32 0x028) = (0, 0, 1) := by decide +kernel

theorem test_witness_WrongWidthOrMisalignedAccess :
    (0x000 < windowSize ∧ (16 ≠ 32 ∨ 0x000 % 4 ≠ 0)) ∧ (0xFFF < windowSize ∧ (32 ≠ 32 ∨ 0xFFF % 4 ≠ 0)) ∧
      (0xFFC < windowSize ∧ (64 ≠ 32 ∨ 0xFFC % 4 ≠ 0)) := by decide

theorem test_witness_WindowReadsBackWrites :
    State.reset.status.busy = false ∧
      (∀ off ∈ [0x080, 0x0BC, 0x400, 0x8FC], off % 4 = 0 ∧ IsWritableData off ∧
        (stateOf (hostAccess (.read 32 off)
          (stateOf (hostAccess (.write 32 off 0xABCD#32) State.reset)))).readData = 0xABCD#32) ∧
      0xFFC % 4 = 0 ∧ 0xFFC < windowSize ∧ 0xFFC ≠ 0x8FC := by
  unfold IsWritableData
  decide +kernel

theorem test_witness_BignumViewsAgree :
    (3 : Nat) < 4 ∧ limb (1#256 <<< 255) 3 = 2 ^ 63 ∧ wordOf (1#256 <<< 255) 7 = 0x80000000#32 := by
  decide +kernel

theorem test_witness_WrittenBignumIsTheOperand :
    State.reset.status.busy = false ∧
      (stateOf (writeBignum 15 gx State.reset)).b[15] = ⟨gx, 0xFF#8⟩ := by decide +kernel

theorem test_witness_CtrlWriteResetsOrSetsIe :
    (3#32).getLsbD 0 = true ∧ (2#32).getLsbD 0 = false ∧ (2#32).getLsbD 1 = true ∧
      (stateOf (hostAccess (.write 32 0x004 2#32) busy)).ie = true := by decide +kernel

theorem test_witness_RegisterReadsReturnTheirWords :
    State.reset.status.busy = false ∧ busy.status.busy = true ∧
    (stateOf (hostAccess (.read 32 0x008) { State.reset with
      status := ⟨true, false, true, false, .final, true, false⟩ })).readData = 0x65#32 ∧
    (∀ off ∈ [0x028, 0x03C, 0x060, 0x07C, 0x0C0, 0x0FC, 0x200, 0x3FC, 0x900, 0xFFC],
      off % 4 = 0 ∧ IsReserved off) ∧
    (∀ off ∈ [0x000, 0x010, 0x024], IsReadOnlyControl off) ∧
    (hashing 3 [5#32]).v[7].written = true ∧ (hashing 3 [5#32]).msg[0].written = true ∧
    (withB [(15, gx)]).b[15].written.getLsbD 7 = true ∧
    (stateOf (hostAccess (.read 32 0x5FC) (withB [(15, gx)]))).readData = 0x32C4AE2C#32 ∧
    (withJ ⟨1, 2, gy⟩ ⟨0, 0, 0⟩).j[0].z.written.getLsbD 7 = true ∧
    (stateOf (hostAccess (.read 32 0x65C) (withJ ⟨1, 2, gy⟩ ⟨0, 0, 0⟩))).readData = 0xBC3736A2#32 := by
  unfold IsReserved IsReadOnlyControl
  decide +kernel

theorem test_witness_HardwareResetLeavesStorageUninit :
    (running 1#32 [.reset]).schedule = .reset :: [] ∧
      (stateOf (step (running 1#32 [.reset]))).status = Status.reset := by decide +kernel

/-- A state with every clause of the invariant at work: a finished hash, one encoded digit, CMPRES -1 and
ERRCODE 5. -/
def withInv : State :=
  { State.reset.writeSm3 sm3Iv 3#64 .final with
    cmpres := 0xFFFFFFFF#32
    errcode := 5#4
    enccnt := 1#7
    enctop := 1#9
    enc := (Vector.replicate 64 0#32).set 0 0x000100F1#32
    status := { Status.reset with sm3st := .final } }

theorem test_witness_StepKeepsInvariant : withInv.Inv ∧ ∃ t, step withInv = .next t :=
  ⟨{ cmpres := by decide
     errcode := by decide
     enc :=
      { count := by decide
        digits := by unfold IsDigitWord; decide
        unused := by decide
        spacing := by decide
        top := by decide
        empty := by decide }
     idle := by decide
     chain := by decide }, _, rfl⟩

theorem test_witness_StepStopsOnlyAsNamed :
    step { State.reset with schedule := [.run (some (.read 32 0x1000)) false false] } =
      .fault (.outsideWindow 0x1000) ∧
    (∃ t, step { State.reset with schedule := [.run (some (.read 32 0xFFC)) false false] } = .next t) ∧
    step (running 0x0000001A#32 []) = .fault .uninitOperand ∧
    operandsWritten (.cmp 0 0) State.reset = false ∧
    operandsWritten (.cmp 0 0) (withB [(0, 5#256)]) = true ∧
    operandsWritten (.sm3fin 5) (hashing 0 [1#32]) = false ∧
    operandsWritten (.sm3fin 4) (hashing 0 [1#32]) = true :=
  ⟨rfl, ⟨_, rfl⟩, rfl, by decide, by decide, by decide, by decide⟩

theorem test_witness_written_bignum_operands :
    let s := withB [(1, 5#256), (2, 7#256)]
    (s.writtenB 1 && s.writtenB 2) = true := by decide

theorem test_witness_InvpWritesInverse :
    let zero := withB [(1, 0#256)]
    let prime := withB [(1, BitVec.ofNat 256 p)]
    let above := withB [(1, BitVec.ofNat 256 (p + 1))]
    (zero.writtenB 1 && prime.writtenB 1 && above.writtenB 1) = true ∧ (zero.readB 1).toNat % p = 0 ∧ (prime.readB 1).toNat % p = 0 ∧ (above.readB 1).toNat % p ≠ 0 ∧
      (run (.invp 3 1) above).b[3].value = 1#256 := by decide +kernel

theorem test_witness_CmpWritesOrder :
    let s := withB [(1, 0#256), (2, 1#256), (3, 1#256)]
    (s.writtenB 1 && s.writtenB 2 && s.writtenB 3) = true ∧
    (s.readB 1).toNat < (s.readB 2).toNat ∧ (s.readB 2).toNat = (s.readB 3).toNat ∧
      (s.readB 1).toNat < (s.readB 3).toNat := by decide +kernel

theorem test_witness_InversionDatapathAgrees :
    (1#256).toNat % p ≠ 0 ∧ kaliski 1#256 = 1 ∧ (0xFFFFFFFF#256).toNat % p ≠ 0 ∧
      0xFFFFFFFF * kaliski 0xFFFFFFFF#256 % p = 1 := by decide +kernel

theorem test_witness_PdblDoublesOrCopiesInfinity :
    holdsJ ⟨7, 9, 0⟩ ⟨gx, gy, 1⟩ = true ∧ (⟨7, 9, 0⟩ : Point).z.toNat = 0 ∧
      (⟨gx, gy, 1⟩ : Point).z.toNat ≠ 0 := by decide +kernel

theorem test_witness_PaddAddsOrCopies :
    holdsJ ⟨7, 9, 0⟩ ⟨gx, gy, 1⟩ = true ∧ holdsJ ⟨gx, gy, 1⟩ ⟨7, 9, 0⟩ = true ∧
      holdsJ ⟨gx, gy, 1⟩ ⟨gx, gy, 2⟩ = true := by decide +kernel

theorem test_witness_ToaffProjects :
    let zero := withJ ⟨gx, gy, 0⟩ ⟨0, 0, 0⟩
    let prime := withJ ⟨gx, gy, BitVec.ofNat 256 p⟩ ⟨0, 0, 0⟩
    let one := withJ ⟨gx, gy, 1⟩ ⟨0, 0, 0⟩
    (zero.writtenJ 0 && prime.writtenJ 0 && one.writtenJ 0) = true ∧
    (zero.readJ 0).z.toNat = 0 ∧ (prime.readJ 0).z.toNat ≠ 0 ∧ (prime.readJ 0).z.toNat % p = 0 ∧
      (one.readJ 0).z.toNat % p ≠ 0 := by decide +kernel

theorem test_witness_SwappedAdditionNegatesYAndZ :
    (1#256 : Bignum) ≠ 0#256 ∧
      (paddValue ⟨gx, gy, 1⟩ ⟨5, 7, 1⟩).z ≠ (paddValue ⟨5, 7, 1⟩ ⟨gx, gy, 1⟩).z := by decide +kernel

-- V-PT-4, V-PT-6
theorem test_witness_EqualPointsAddToInfinity :
    let g : Point := ⟨gx, gy, 1⟩
    g.z ≠ 0#256 ∧ addH g g = 0#256 ∧ addR g g = 0#256 ∧ (pnegValue g).z ≠ 0#256 ∧
      addH g (pnegValue g) = 0#256 ∧ addR g (pnegValue g) ≠ 0#256 ∧
      (paddValue g (pnegValue g)).x =
        0xEFCBB7774A337BC19244A1FA1DF68D9D3EEE564A39880297C275B874E3530797#256 := by decide +kernel

-- V-ENC-1, V-ENC-13, V-ENC-17
theorem test_witness_EncodingRepresentsScalar :
    encodeScalar 0#256 = [] ∧ encodeScalar (BitVec.ofNat 256 (2 ^ 256 - 1)) = [⟨-1, 0⟩, ⟨1, 256⟩] ∧
      (encodeScalar
        0x8421084210842108421084210842108421084210842108421084210842108421#256).length = 52 := by
  decide +kernel

theorem test_witness_SencExposesEncoding :
    let e := encodeScalar 0x11#256
    e[0]? = some ⟨-15, 0⟩ ∧ e[1]? = some ⟨1, 5⟩ ∧ e.length ≤ 63 ∧ e.getLast? = some ⟨1, 5⟩ ∧
      encodeScalar 0#256 = [] := by decide +kernel

theorem test_witness_PretableArrangement :
    1 ≤ 1 ∧ 7 < 8 ∧ tableIndex 15 = 7 ∧ tableIndex (-15) = 15 ∧
      (pretable gx gy).getD 8 infinity = pnegValue ⟨gx, gy, 1⟩ := by decide +kernel

/-- The schedule of `2 G + 0 P`: G at position 1, then a doubling. -/
theorem follows_two (tp : List Point) :
    IsTopPosition (encodeScalar 2 ++ encodeScalar 0) 1 ∧
    FollowsSchedule (encodeScalar 2) (encodeScalar 0) (pretable gx gy) tp 1
      (fun i => if i = 1 then infinity else pdblValue ⟨gx, gy, 1⟩)
      (fun i => if i = 1 then ⟨gx, gy, 1⟩ else pdblValue ⟨gx, gy, 1⟩)
      (fun i => if i = 1 then ⟨gx, gy, 1⟩ else pdblValue ⟨gx, gy, 1⟩) := by
  have e1 : encodeScalar 2 = [⟨1, 1⟩] := by decide +kernel
  have e2 : encodeScalar 0 = [] := by decide +kernel
  rw [e1, e2]
  refine ⟨by simp [IsTopPosition], ⟨rfl, ?_, ?_, ?_, ?_, ?_⟩⟩
  · intro i hi
    obtain rfl : i = 0 := by omega
    rfl
  · intro d hd
    obtain rfl : d = ⟨1, 1⟩ := by simpa using hd
    rfl
  · intro i hi h
    have : i ≠ 1 := fun e => h ⟨1, 1⟩ (by simp) e.symm
    simp [this]
  · simp
  · intro i _ _; rfl

theorem test_witness_DsmWritesAffineAccumulator :
    (∃ top before mid after, IsTopPosition (encodeScalar 2 ++ encodeScalar 0) top ∧
      FollowsSchedule (encodeScalar 2) (encodeScalar 0) (pretable gx gy) (pretable 5 7) top
        before mid after) ∧
    (let s := withB [(0, 1#256), (1, 0#256), (4, 5#256), (5, 7#256)]
     (s.writtenB 0 && s.writtenB 1 && s.writtenB 4 && s.writtenB (pairNext 4)) = true) ∧
    (dsmAccumulator 0 0 5 7).z = 0#256 ∧ (dsmAccumulator 1 0 5 7).z ≠ 0#256 :=
  ⟨⟨_, _, _, _, follows_two _⟩, by decide +kernel, by decide +kernel, by decide +kernel⟩

theorem tableAvoidsEqual_generator : TableAvoidsEqual gx gy := by
  intro k h1 h2
  unfold MeetsEqual
  interval_cases k <;> decide +kernel

theorem tableAvoidsEqual_five_seven : TableAvoidsEqual 5 7 := by
  intro k h1 h2
  unfold MeetsEqual
  interval_cases k <;> decide +kernel

theorem test_witness_ScheduleComputesCombination :
    FollowsGroup (A := Unit) (fun _ => True) (fun _ => 0) ∧ TableAvoidsEqual gx gy ∧ TableAvoidsEqual 5 7 ∧
    ∃ top before mid after, IsTopPosition (encodeScalar 2 ++ encodeScalar 0) top ∧
      FollowsSchedule (encodeScalar 2) (encodeScalar 0) (pretable gx gy) (pretable 5 7) top
        before mid after ∧
      ScheduleAvoidsEqual (encodeScalar 2) (encodeScalar 0) (pretable gx gy) (pretable 5 7) before mid := by
  refine ⟨⟨by simp, by simp, by simp, by simp⟩, tableAvoidsEqual_generator, tableAvoidsEqual_five_seven,
    1, _, _, _, (follows_two (pretable 5 7)).1, (follows_two (pretable 5 7)).2, ?_⟩
  have e1 : encodeScalar 2 = [⟨1, 1⟩] := by decide +kernel
  have e2 : encodeScalar 0 = [] := by decide +kernel
  rw [e1, e2]
  refine ⟨fun d hd => ?_, by simp⟩
  obtain rfl : d = ⟨1, 1⟩ := by simpa using hd
  exact fun h => h.1 rfl

theorem test_witness_DsmOfOneAndZeroIsGenerator :
    (let s := withB [(0, 1#256), (1, 0#256), (4, 5#256), (5, 7#256)]
     (s.writtenB 0 && s.writtenB 1 && s.writtenB 4 && s.writtenB (pairNext 4)) = true ∧
       s.readB 0 = 1#256 ∧ s.readB 1 = 0#256) ∧
    (let s := withB [(0, 1#256), (1, 1#256), (4, gx), (5, gy)]
     (s.writtenB 0 && s.writtenB 1 && s.writtenB 4 && s.writtenB (pairNext 4)) = true ∧
       s.readB 0 = 1#256 ∧ s.readB 1 = 1#256 ∧ s.readB 4 = gx ∧ s.readB (pairNext 4) = gy) := by
  decide +kernel

/-- The round states on all-zero words. -/
def zeroRounds : Nat → Chain
  | 0 => sm3Iv
  | j + 1 => sm3Round j 0 (0 ^^^ 0) (zeroRounds j)

theorem test_witness_CompressionFollowsItsFormulas (h : Obligations.CompressionFollowsItsFormulas) :
    compress sm3Iv zeros = xorChain sm3Iv (zeroRounds 64) := by
  refine h sm3Iv zeros (fun _ => 0) zeroRounds rfl (by decide) (fun _ _ _ => by decide) rfl ?_
  intro j _
  show (match zeroRounds j with | ⟨a, b, c, d, e, f, g, h⟩ => sm3Round j 0 (0 ^^^ 0) (zeroRounds j) = _)
  generalize zeroRounds j = x
  rfl

theorem test_witness_Sm3blkCompressesOneBlock :
    State.reset.status.sm3st ≠ .active ∧
    ((hashing 0xFFFFFFFFFFFFFFC0#64 zeros).status.sm3st = .active ∧
      (hashing 0xFFFFFFFFFFFFFFC0#64 zeros).writtenV = true ∧
      (hashing 0xFFFFFFFFFFFFFFC0#64 zeros).writtenMsg 64 = true ∧
      2 ^ 64 - 1 < (hashing 0xFFFFFFFFFFFFFFC0#64 zeros).sm3len.toNat + 64) ∧
    (hashing 0xFFFFFFFFFFFFFFBF#64 zeros).status.sm3st = .active ∧
      (hashing 0xFFFFFFFFFFFFFFBF#64 zeros).writtenV = true ∧
      (hashing 0xFFFFFFFFFFFFFFBF#64 zeros).writtenMsg 64 = true ∧
      (hashing 0xFFFFFFFFFFFFFFBF#64 zeros).sm3len.toNat + 64 ≤ 2 ^ 64 - 1 := by decide +kernel

theorem test_witness_Sm3finPadsAndFinishes :
    State.reset.status.sm3st ≠ .active ∧
    ((hashing 0xFFFFFFFFFFFFFFFF#64 [1#32]).status.sm3st = .active ∧
      (hashing 0xFFFFFFFFFFFFFFFF#64 [1#32]).writtenV = true ∧
      (hashing 0xFFFFFFFFFFFFFFFF#64 [1#32]).writtenMsg 1 = true ∧
      2 ^ 64 - 1 < (hashing 0xFFFFFFFFFFFFFFFF#64 [1#32]).sm3len.toNat + 1) ∧
    (hashing 0xFFFFFFFFFFFFFFC0#64 zeros).status.sm3st = .active ∧
      (hashing 0xFFFFFFFFFFFFFFC0#64 zeros).writtenV = true ∧
      (hashing 0xFFFFFFFFFFFFFFC0#64 zeros).writtenMsg 63 = true ∧
      (hashing 0xFFFFFFFFFFFFFFC0#64 zeros).sm3len.toNat + 63 ≤ 2 ^ 64 - 1 := by decide +kernel

-- V-SM3-11, V-SM3-12
theorem test_witness_PaddingFillsWholeBlocks :
    (List.replicate 63 0x61#8).length ≤ 63 ∧ (padBytes (List.replicate 55 0x61#8) 55).length = 1 ∧
      (padBytes (List.replicate 56 0x61#8) 56).length = 2 ∧ (padBytes [] 0).length = 1 := by decide +kernel

theorem test_witness_MessageBytesAreBigEndian :
    (3 : Nat) < 4 ∧ ((hashing 0 [0x61626364#32]).readTail 64)[3]? = some 0x64#8 := by decide +kernel

end Sys2Proof.Tests
end

section
/-! SUPPORT. What each command writes, one case per kind of destination (spec/10_state.md R32 to R56):
an invariant or a frame of the commands takes its cases from `effect_writes`. -/

namespace Sys2Proof.Machine

/-- The command `i` writes its destinations in `s` and leaves `u`. -/
inductive Writes (s : State) : Instr → State → Prop
  | nothing : Writes s .nop s
  | big {i : Instr} (rd : Field) (x : Bignum)
      (h : i.op ∈ [Op.addp, .subp, .mulp, .sqrp, .modp, .invp, .addn]) : Writes s i (s.writeB rd x)
  | pair {i : Instr} (rd : Field) (xy : Bignum × Bignum) (h : i.op ∈ [Op.toaff, .dsm]) :
      Writes s i (s.writePair rd xy)
  | point {i : Instr} (rd : Field) (q : Point) (h : i.op ∈ [Op.pdbl, .padd, .pneg, .tojcb]) :
      Writes s i (s.writeJ rd q)
  | flag {i : Instr} (x : Bool) (h : i.op ∈ [Op.chkn, .isval]) : Writes s i (s.writeFlag x)
  | cmpres (rs1 rs2 : Field) :
      Writes s (.cmp rs1 rs2) (s.writeCmpres (compare (s.readB rs1) (s.readB rs2)))
  | enc (rs1 : Field) :
      Writes s (.senc rs1)
        (s.writeEnc (encodeScalar (s.readB rs1)).length (startingBit (encodeScalar (s.readB rs1)))
          (encEntry (encodeScalar (s.readB rs1))))
  | sm3init : Writes s .sm3init (s.writeSm3 sm3Iv 0#64 .active)
  | sm3blk (v : Chain) (len : BitVec 64) (h : s.status.sm3st = .active) :
      Writes s .sm3blk (s.writeSm3 v len s.status.sm3st)
  | sm3fin (imm : Fin 64) (v : Chain) (len : BitVec 64) (h : s.status.sm3st = .active) :
      Writes s (.sm3fin imm) (s.writeSm3 v len .final)

/-- Everything a successful command can do to the state, before the indicators. -/
theorem effect_writes {i : Instr} {s u : State} (h : effect i s = .ok u) : Writes s i u := by
  cases i <;> simp only [effect, map_eq_ok, Except.ok.injEq] at h
  case nop => subst h; exact .nothing
  case addp | subp | mulp | sqrp | modp | addn => subst h; exact .big _ _ (by simp [Instr.op])
  case invp => obtain ⟨x, -, rfl⟩ := h; exact .big _ _ (by simp [Instr.op])
  case chkn | isval => subst h; exact .flag _ (by simp [Instr.op])
  case cmp => subst h; exact .cmpres _ _
  case pdbl | padd | pneg | tojcb => subst h; exact .point _ _ (by simp [Instr.op])
  case toaff | dsm => obtain ⟨xy, -, rfl⟩ := h; exact .pair _ _ (by simp [Instr.op])
  case senc => subst h; exact .enc _
  case sm3init => subst h; exact .sm3init
  case sm3blk => obtain ⟨_, hc, rfl⟩ := h; exact .sm3blk _ _ (sm3Check_ok hc).1
  case sm3fin => obtain ⟨_, hc, rfl⟩ := h; exact .sm3fin _ _ _ (sm3Check_ok hc).1

end Sys2Proof.Machine
end

section
/-! SUPPORT. The encoding of a scalar as a list of digits: what every scan produces
(spec/42_scalar.md R250, R251) and what its words in the ENC registers read back as
(spec/10_state.md R52). -/

namespace Sys2Proof.Machine

/-- Digits at or above position `lo`: odd codes in [-15, 15], positions up to 256, at least five apart
(spec/42_scalar.md R251). -/
inductive DigitsFrom : Nat → List Digit → Prop
  | nil (lo : Nat) : DigitsFrom lo []
  | cons {lo : Nat} {d : Digit} {e : List Digit} (low : lo ≤ d.shift) (high : d.shift ≤ 256)
      (odd : d.code % 2 = 1) (lower : -15 ≤ d.code) (upper : d.code ≤ 15)
      (rest : DigitsFrom (d.shift + 5) e) : DigitsFrom lo (d :: e)

theorem DigitsFrom.mono {lo lo' : Nat} {e : List Digit} (h : DigitsFrom lo' e) (hle : lo ≤ lo') :
    DigitsFrom lo e := by
  cases h with
  | nil => exact .nil lo
  | cons low high odd lower upper rest => exact .cons (hle.trans low) high odd lower upper rest

/-- Where the scan does not skip, the bit differs from the carry, so the window is odd. -/
theorem window_odd {k : Bignum} {pos : Nat} {carry : Bool} (h : k.getLsbD pos ≠ carry) :
    window k pos carry % 2 = 1 := by
  have hbit : (k.toNat / 2 ^ pos % 2 = 1) ↔ k.getLsbD pos = true := by
    simp [BitVec.getLsbD, Nat.testBit_eq_decide_div_mod_eq]
  unfold window
  cases carry with
  | false =>
    have := hbit.2 (by simpa using h)
    simp only [Bool.toNat_false]
    omega
  | true =>
    have := mt hbit.1 h
    simp only [Bool.toNat_true]
    omega

theorem window_le (k : Bignum) (pos : Nat) (carry : Bool) : window k pos carry ≤ 32 := by
  have := carry.toNat_le
  unfold window
  omega

/-- Past position 251 a window has fewer than five bits of the scalar, so it gives no carry. -/
theorem window_le_of_high (k : Bignum) {pos : Nat} (carry : Bool) (h : 252 ≤ pos) :
    window k pos carry ≤ 16 := by
  have hlt : k.toNat / 2 ^ pos < 2 ^ 4 := by
    rw [Nat.div_lt_iff_lt_mul (by positivity), ← Nat.pow_add]
    exact k.isLt.trans_le (Nat.pow_le_pow_right (by decide) (by omega))
  have hmod := Nat.mod_le (k.toNat / 2 ^ pos) 32
  have hcarry := carry.toNat_le
  unfold window
  omega

/-- A scan yields digits from its position on; a carry is pending only up to position 256 (R250, R251). -/
theorem scan_digitsFrom (k : Bignum) (fuel pos : Nat) (carry : Bool) (hc : carry = true → pos ≤ 256) :
    DigitsFrom pos (scan k fuel pos carry) := by
  induction fuel generalizing pos carry with
  | zero => exact .nil pos
  | succ fuel ih =>
    unfold scan
    split
    case isFalse => exact .nil pos
    case isTrue hgo =>
      have hpos : pos ≤ 256 := hgo.elim Nat.le_of_lt hc
      split
      case isTrue hskip =>
        refine (ih (pos + 1) carry fun h => ?_).mono (Nat.le_succ pos)
        by_contra hge
        rw [BitVec.getLsbD_of_ge _ _ (by omega), h] at hskip
        cases hskip
      case isFalse hdigit =>
        have hodd := window_odd hdigit
        have hle := window_le k pos carry
        split
        case isTrue hbig =>
          have hlow : pos < 252 := Nat.lt_of_not_le fun h => by
            have := window_le_of_high k carry h
            omega
          exact .cons le_rfl hpos (by dsimp only; omega) (by dsimp only; omega) (by dsimp only; omega)
            (ih _ _ fun _ => by dsimp only; omega)
        case isFalse =>
          exact .cons le_rfl hpos (by dsimp only; omega) (by dsimp only; omega) (by dsimp only; omega)
            (ih _ _ nofun)

theorem encodeScalar_digitsFrom (k : Bignum) : DigitsFrom 0 (encodeScalar k) :=
  scan_digitsFrom k 257 0 false nofun

/-- Positions at least five apart up to 256 leave room for that many digits. -/
theorem DigitsFrom.length_le {lo : Nat} {e : List Digit} (h : DigitsFrom lo e) (hlo : lo ≤ 261) :
    lo + 5 * e.length ≤ 261 := by
  induction h with
  | nil => simpa using hlo
  | cons low high _ _ _ _ ih =>
    have := ih (by omega)
    rw [List.length_cons]
    omega

/-- An encoding has at most 52 digits (spec/42_scalar.md R251). -/
theorem DigitsFrom.length_le_52 {e : List Digit} (h : DigitsFrom 0 e) : e.length ≤ 52 := by
  have := h.length_le (Nat.zero_le _)
  omega

theorem DigitsFrom.digit {lo : Nat} {e : List Digit} (h : DigitsFrom lo e) {d : Digit} (hd : d ∈ e) :
    lo ≤ d.shift ∧ d.shift ≤ 256 ∧ d.code % 2 = 1 ∧ -15 ≤ d.code ∧ d.code ≤ 15 := by
  induction h with
  | nil => cases hd
  | cons low high odd lower upper _ ih =>
    cases hd with
    | head => exact ⟨low, high, odd, lower, upper⟩
    | tail _ hd =>
      obtain ⟨hlow, rest⟩ := ih hd
      exact ⟨by omega, rest⟩

theorem DigitsFrom.spacing {lo : Nat} {e : List Digit} (h : DigitsFrom lo e) (i : Nat)
    (hi : i + 1 < e.length) : e[i].shift + 5 ≤ e[i + 1].shift := by
  induction h generalizing i with
  | nil => simp at hi
  | cons _ _ _ _ _ rest ih =>
    cases i with
    | zero => exact (rest.digit (List.getElem_mem _)).1
    | succ i => exact ih i (by simpa using hi)

/-! ### The ENC word of a digit -/

/-- The ENC word of a digit by its fields (spec/10_state.md R52). -/
theorem digitWord_eq_append (d : Digit) :
    digitWord d = BitVec.ofNat 16 d.shift ++ 0#8 ++ BitVec.ofInt 8 d.code := by
  apply BitVec.eq_of_getLsbD_eq
  intro i hi
  simp only [digitWord, BitVec.getLsbD_or, BitVec.getLsbD_append, BitVec.getLsbD_shiftLeft,
    BitVec.getLsbD_setWidth, BitVec.getLsbD_ofNat, hi, decide_true, Bool.true_and]
  by_cases h8 : i < 8
  · simp [h8, show i < 16 by omega]
  · rw [BitVec.getLsbD_of_ge (BitVec.ofInt 8 d.code) i (by omega)]
    by_cases h16 : i < 16
    · simp [h8, h16, show i - 8 < 8 by omega]
    · simp [h8, h16, show ¬ i - 8 < 8 by omega, show i - 8 - 8 = i - 16 by omega,
        show i - 16 < 32 by omega, show i - 16 < 16 by omega]

theorem encShift_digitWord {d : Digit} (h : d.shift ≤ 256) : encShift (digitWord d) = d.shift := by
  have hs : (digitWord d).extractLsb' 16 9 = (BitVec.ofNat 16 d.shift).extractLsb' 0 9 := by
    rw [digitWord_eq_append, extractLsb'_append_high _ _ 8 9, extractLsb'_append_high _ _ 0 9]
  rw [encShift, hs]
  simp
  omega

theorem encCode_digitWord {d : Digit} (h1 : -15 ≤ d.code) (h2 : d.code ≤ 15) :
    encCode (digitWord d) = d.code := by
  have hc : (digitWord d).extractLsb' 0 8 = BitVec.ofInt 8 d.code := by
    rw [digitWord_eq_append, extractLsb'_append_low _ _ 0 8 (by decide), extractLsb'_self]
  rw [encCode, hc, BitVec.toInt_ofInt]
  exact Int.bmod_eq_of_le (by omega) (by omega)

/-- The word of a digit that a scan yields is a digit word (spec/10_state.md R52). -/
theorem isDigitWord_digitWord {d : Digit} (hs : d.shift ≤ 256) (hodd : d.code % 2 = 1)
    (h1 : -15 ≤ d.code) (h2 : d.code ≤ 15) : IsDigitWord (digitWord d) := by
  have hmid : (digitWord d).extractLsb' 8 8 = 0#8 := by
    rw [digitWord_eq_append, extractLsb'_append_high _ _ 0 8, extractLsb'_append_low _ _ 0 8 (by decide),
      extractLsb'_self]
  have htop : (digitWord d).extractLsb' 25 7 = 0#7 := by
    rw [digitWord_eq_append, extractLsb'_append_high _ _ 17 7, extractLsb'_append_high _ _ 9 7]
    apply BitVec.eq_of_toNat_eq
    simp only [BitVec.extractLsb'_toNat, BitVec.toNat_ofNat, Nat.shiftRight_eq_div_pow]
    omega
  unfold IsDigitWord
  rw [encCode_digitWord h1 h2, encShift_digitWord hs]
  exact ⟨hodd, h1, h2, hs, hmid, htop⟩

/-! ### ENC entries -/

theorem encEntry_of_lt {e : List Digit} {i : Nat} (h : i < e.length) : encEntry e i = digitWord e[i] := by
  simp [encEntry, h]

theorem encEntry_of_length_le {e : List Digit} {i : Nat} (h : e.length ≤ i) : encEntry e i = 0#32 := by
  simp [encEntry, h]

/-- The position of the highest digit is that of the last one. -/
theorem startingBit_of_length {e : List Digit} {i : Nat} (h : e.length = i + 1) :
    startingBit e = (e[i]'(by omega)).shift := by
  simp [startingBit, List.getLast?_eq_getElem?, h]

theorem writeEnc_enc_get (s : State) (cnt top : Nat) (g : Nat → Word) (i : Fin 64) :
    (s.writeEnc cnt top g).enc[i] = g i := by
  simp

end Sys2Proof.Machine
end

section
/-! SUPPORT. The invariant of every run: it holds after reset, and every event of a cycle keeps it
(O26, O27). -/

namespace Sys2Proof.Machine

/-! ### The encoder registers -/

/-- The encoder's invariant depends on the encoder registers alone. -/
theorem EncInv.of_sameEnc {s t : State} (h : EncInv s) (he : SameEnc s t) : EncInv t := by
  obtain ⟨hcnt, htop, henc⟩ := he
  obtain ⟨count, digits, unused, spacing, top, empty⟩ := h
  constructor <;> simp only [hcnt, htop, henc] <;> assumption

/-- The reset values of the encoder registers are the empty encoding (spec/10_state.md R57). -/
theorem EncInv.of_reset {s : State} (hcnt : s.enccnt = 0#7) (htop : s.enctop = 0#9)
    (henc : s.enc = Vector.replicate 64 0#32) : EncInv s where
  count := by simp [hcnt]
  digits := by simp [hcnt]
  unused := by simp [henc]
  spacing := by simp [hcnt]
  top := by simp [hcnt]
  empty _ := htop

/-- SENC leaves an encoding in the encoder registers (spec/42_scalar.md R251, R255). -/
theorem EncInv.writeEnc (s : State) {e : List Digit} (h : DigitsFrom 0 e) :
    EncInv (s.writeEnc e.length (startingBit e) (encEntry e)) := by
  have hlen := h.length_le_52
  have hcnt : (s.writeEnc e.length (startingBit e) (encEntry e)).enccnt.toNat = e.length := by
    simp only [State.writeEnc_enccnt, BitVec.toNat_ofNat]
    omega
  have digitAt (i : Nat) (hi : i < e.length) := h.digit (List.getElem_mem hi)
  constructor
  case empty =>
    intro h0
    have hnil : e = [] := List.eq_nil_of_length_eq_zero (by rw [← hcnt, h0]; rfl)
    subst hnil
    rfl
  all_goals simp only [hcnt, writeEnc_enc_get]
  case count => exact hlen
  case digits =>
    intro i hi
    obtain ⟨-, hs, hodd, h1, h2⟩ := digitAt i hi
    rw [encEntry_of_lt hi]
    exact isDigitWord_digitWord hs hodd h1 h2
  case unused => exact fun i hi => encEntry_of_length_le hi
  case spacing =>
    intro i j hij hj
    have hi : i.val < e.length := by omega
    rw [encEntry_of_lt hi, encEntry_of_lt hj, encShift_digitWord (digitAt i hi).2.1,
      encShift_digitWord (digitAt j hj).2.1]
    simpa only [hij] using h.spacing i (hij ▸ hj)
  case top =>
    intro i hi
    obtain ⟨-, hs, -⟩ := digitAt i (by omega)
    rw [encEntry_of_lt (by omega), encShift_digitWord hs, State.writeEnc_enctop,
      startingBit_of_length hi, BitVec.toNat_ofNat]
    omega

/-! ### The invariant, event by event -/

/-- The invariant depends on the result indicators, the encoder registers and the SM3 context alone. -/
theorem State.Inv.of_same {s t : State} (h : s.Inv) (hcmp : SameCmpres s t) (herr : t.errcode.toNat ≤ 5)
    (henc : SameEnc s t) (hsm3 : SameSm3 s t) : t.Inv := by
  obtain ⟨hv, hlen, hst⟩ := hsm3
  obtain ⟨cmpres, -, enc, idle, chain⟩ := h
  refine ⟨?_, herr, enc.of_sameEnc henc, ?_, ?_⟩
  · rwa [hcmp]
  · rwa [hst, hlen]
  · rwa [hst, hv]

/-- The control state after either reset satisfies the invariant (spec/10_state.md R57). -/
theorem State.Inv.of_reset {s : State} (hcmp : s.cmpres = 0#32) (herr : s.errcode = 0#4)
    (hcnt : s.enccnt = 0#7) (htop : s.enctop = 0#9) (henc : s.enc = Vector.replicate 64 0#32)
    (hst : s.status.sm3st = .idle) (hlen : s.sm3len = 0#64) : s.Inv where
  cmpres := .inr (.inl hcmp)
  errcode := by simp [herr]
  enc := .of_reset hcnt htop henc
  idle _ := hlen
  chain h := absurd hst h

theorem State.Inv.softReset (s : State) : s.softReset.Inv := .of_reset rfl rfl rfl rfl rfl rfl rfl

theorem State.Inv.hardwareReset (s : State) : s.hardwareReset.Inv := .of_reset rfl rfl rfl rfl rfl rfl rfl

theorem State.Inv.advance {s : State} (h : s.Inv) : s.advance.Inv :=
  h.of_same rfl h.errcode ⟨rfl, rfl, rfl⟩ ⟨rfl, rfl, rfl⟩

theorem State.Inv.finish {s : State} (h : s.Inv) (c : ResultCode) : (s.finish c).Inv :=
  h.of_same rfl c.bits_le ⟨rfl, rfl, rfl⟩ ⟨rfl, rfl, rfl⟩

theorem compare_cases (a b : Bignum) :
    compare a b = 0xFFFFFFFF#32 ∨ compare a b = 0#32 ∨ compare a b = 1#32 := by
  unfold compare
  split
  · simp
  · split <;> simp

/-- An SM3 command leaves a started context with a written chaining value. -/
theorem State.Inv.writeSm3 {s : State} (h : s.Inv) (v : Chain) (len : BitVec 64) {st : Sm3State}
    (hst : st ≠ .idle) : (s.writeSm3 v len st).Inv where
  cmpres := h.cmpres
  errcode := h.errcode
  enc := h.enc.of_sameEnc ⟨rfl, rfl, rfl⟩
  idle hidle := absurd hidle hst
  chain _ := chainCells_written v

/-- Every command's destinations keep the invariant. -/
theorem State.Inv.writes {i : Instr} {s u : State} (h : s.Inv) (hw : Writes s i u) : u.Inv := by
  cases hw with
  | nothing => exact h
  | big | pair | point | flag => exact h.of_same rfl h.errcode ⟨rfl, rfl, rfl⟩ ⟨rfl, rfl, rfl⟩
  | cmpres a b =>
    exact ⟨compare_cases _ _, h.errcode, h.enc.of_sameEnc ⟨rfl, rfl, rfl⟩, h.idle, h.chain⟩
  | enc a => exact ⟨h.cmpres, h.errcode, .writeEnc s (encodeScalar_digitsFrom _), h.idle, h.chain⟩
  | sm3init => exact h.writeSm3 _ _ (by decide)
  | sm3blk v len hact => exact h.writeSm3 _ _ (by rw [hact]; decide)
  | sm3fin imm v len => exact h.writeSm3 _ _ (by decide)

theorem State.Inv.exec {i : Instr} {s t : State} (h : s.Inv) (he : exec i s = .next t) : t.Inv := by
  obtain ⟨-, ⟨u, hu, rfl⟩ | ⟨c, -, -, rfl⟩⟩ := exec_cases he
  · exact (h.writes (effect_writes hu)).finish .ok
  · exact h.finish c

theorem State.Inv.completion {s t : State} (h : s.Inv) (hc : completion s = .next t) : t.Inv := by
  obtain ⟨i, -, he⟩ | ⟨e, -, rfl⟩ := completion_cases hc
  · exact h.exec he
  · exact h.finish .illegal

/-- A host write of a data word changes MSG, B or J, which the invariant does not read. -/
theorem State.Inv.writeData {s : State} (h : s.Inv) (l : Loc) (w : Word) : (s.writeData l w).Inv := by
  cases l <;> exact h.of_same rfl h.errcode ⟨rfl, rfl, rfl⟩ ⟨rfl, rfl, rfl⟩

theorem State.Inv.busRead {s : State} (h : s.Inv) (width off : Nat) : (s.busRead width off).Inv := by
  obtain e | ⟨-, e⟩ := busRead_cases s width off <;> rw [e] <;>
    exact h.of_same rfl h.errcode ⟨rfl, rfl, rfl⟩ ⟨rfl, rfl, rfl⟩

theorem State.Inv.busWrite {s : State} (h : s.Inv) (width off : Nat) (w : Word) :
    (s.busWrite width off w).Inv := by
  obtain e | ⟨-, -, -, e⟩ | ⟨-, -, -, e⟩ | ⟨-, -, -, e⟩ | ⟨-, -, -, e⟩ | ⟨-, -, e⟩ | ⟨-, -, -, e⟩ |
    ⟨-, -, -, e⟩ := busWrite_cases s width off w <;> rw [e]
  · exact h
  · exact h.of_same rfl h.errcode ⟨rfl, rfl, rfl⟩ ⟨rfl, rfl, rfl⟩
  · exact h.of_same rfl h.errcode ⟨rfl, rfl, rfl⟩ ⟨rfl, rfl, rfl⟩
  · exact .softReset s
  · exact h.of_same rfl h.errcode ⟨rfl, rfl, rfl⟩ ⟨rfl, rfl, rfl⟩
  · exact h.of_same rfl h.errcode ⟨rfl, rfl, rfl⟩ ⟨rfl, rfl, rfl⟩
  · exact h.of_same rfl h.errcode ⟨rfl, rfl, rfl⟩ ⟨rfl, rfl, rfl⟩
  · exact h.writeData _ w

theorem State.Inv.hostAccess {a : Access} {s t : State} (h : s.Inv) (ha : hostAccess a s = .next t) :
    t.Inv := by
  obtain ⟨-, ⟨width, off, -, rfl⟩ | ⟨width, off, w, -, rfl⟩⟩ := hostAccess_next ha
  · exact h.busRead width off
  · exact h.busWrite width off w

theorem State.Inv.runCycle {c : Cycle} {s t : State} (h : s.Inv) (hc : runCycle c s = .next t) :
    t.Inv := by
  obtain ⟨-, rfl⟩ | ⟨_, _, -, -, rfl⟩ | ⟨_, _, -, -, hr⟩ | ⟨a, _, _, -, -, ha⟩ |
    ⟨a, _, _, u, -, -, -, ha, hr⟩ | ⟨a, _, _, u, -, -, -, hr, ha⟩ := runCycle_cases hc
  · exact .hardwareReset s
  · exact h
  · exact h.completion hr
  · exact h.hostAccess ha
  · exact (h.hostAccess ha).completion hr
  · exact (h.completion hr).hostAccess ha

/-- Settles O26: every field that the invariant reads has its reset value. -/
theorem resetSatisfiesInvariant : Obligations.ResetSatisfiesInvariant :=
  .of_reset rfl rfl rfl rfl rfl rfl rfl

/-- Settles O27, event by event of the cycle; SENC's case is `EncInv.writeEnc` over `scan_digitsFrom`. -/
theorem stepKeepsInvariant : Obligations.StepKeepsInvariant :=
  fun _ _ hs hstep => hs.advance.runCycle hstep

end Sys2Proof.Machine
end

section
/-! SUPPORT. Which commands write which destinations, when a step stops, and which command a step runs
(O5, O13, O28). -/

namespace Sys2Proof.Machine

/-! ### Named writers -/

/-- The commands that write STATUS.FLAG (spec/10_state.md R56). -/
theorem eq_of_op_flag {i : Instr} (h : i.op ∈ [Op.chkn, .isval]) : ∃ a, i = .chkn a ∨ i = .isval a := by
  cases i <;> simp [Instr.op] at h ⊢

/-- The commands that write a point register (spec/10_state.md R34). -/
theorem eq_of_op_point {i : Instr} (h : i.op ∈ [Op.pdbl, .padd, .pneg, .tojcb]) :
    (∃ d a, i = .pdbl d a) ∨ (∃ d a b, i = .padd d a b) ∨ (∃ d a, i = .pneg d a) ∨
      ∃ d a b, i = .tojcb d a b := by
  cases i <;> simp [Instr.op] at h ⊢

/-- Settles O13: a successful command writes one kind of destination (`Writes`), a failing one none. -/
theorem destinationsHaveNamedWriters : Obligations.DestinationsHaveNamedWriters := by
  intro i s t h
  obtain ⟨-, ⟨u, hu, rfl⟩ | ⟨c, -, -, rfl⟩⟩ := exec_cases h
  · cases effect_writes hu with
    | nothing => simp [SameEnc]
    | big rd x hop =>
      have : i.op ∈ [Op.addp, .subp, .mulp, .sqrp, .modp, .invp, .addn] ++ [.toaff, .dsm] :=
        List.mem_append_left _ hop
      simpa [SameEnc] using fun _ => this
    | pair rd xy hop =>
      have : i.op ∈ [Op.addp, .subp, .mulp, .sqrp, .modp, .invp, .addn] ++ [.toaff, .dsm] :=
        List.mem_append_right _ hop
      simpa [SameEnc] using fun _ => this
    | point rd q hop => simpa [SameEnc] using fun _ => eq_of_op_point hop
    | flag x hop => simpa [SameEnc] using fun _ => eq_of_op_flag hop
    | cmpres | enc | sm3init | sm3blk | sm3fin => simp [SameEnc]
  · simp [SameEnc]

/-! ### When a step stops -/

/-- Whether a command's operands are written depends on the register files and SM3ST alone. -/
theorem operandsWritten_congr {s t : State} (i : Instr) (hb : t.b = s.b) (hj : t.j = s.j) (hv : t.v = s.v)
    (hm : t.msg = s.msg) (hst : t.status.sm3st = s.status.sm3st) :
    operandsWritten i t = operandsWritten i s := by
  cases i <;>
    simp only [operandsWritten, State.writtenB, State.writtenJ, State.writtenV, State.writtenMsg, hb, hj,
      hv, hm, hst]

/-- A write that resets the block is a soft reset of the schedule's terms (spec/10_state.md R42). -/
theorem isSoftReset_of_ctrl {width off : Nat} {w : Word} (ha : isAligned32 width off = true)
    (hl : locate off = .ctrl) (hw : w.getLsbD 0 = true) : (Access.write width off w).isSoftReset = true := by
  simp only [isAligned32, Bool.and_eq_true, beq_iff_eq] at ha
  obtain ⟨hwidth, hmod⟩ := ha
  simp [Access.isSoftReset, hwidth, eq_of_locate_ctrl hmod hl, hw]

/-- While BUSY no access but a soft reset changes the running command, a register that a command can
read, or SM3ST (spec/20_memory.md R91, spec/70_reset_and_hazards.md R461). -/
theorem hostAccess_busy_keeps {a : Access} {s t : State} (hb : s.status.busy = true)
    (hr : a.isSoftReset = false) (h : hostAccess a s = .next t) :
    t.cmd = s.cmd ∧ t.b = s.b ∧ t.j = s.j ∧ t.v = s.v ∧ t.msg = s.msg ∧
      t.status.sm3st = s.status.sm3st := by
  obtain ⟨-, ⟨width, off, -, rfl⟩ | ⟨width, off, w, rfl, rfl⟩⟩ := hostAccess_next h
  · obtain e | ⟨-, e⟩ := busRead_cases s width off <;> rw [e] <;> exact ⟨rfl, rfl, rfl, rfl, rfl, rfl⟩
  · obtain e | ⟨-, -, hidle, -⟩ | ⟨-, -, -, e⟩ | ⟨ha, hl, hw, -⟩ | ⟨-, -, -, e⟩ | ⟨-, -, e⟩ |
      ⟨-, -, -, e⟩ | ⟨-, -, hidle, -⟩ := busWrite_cases s width off w
    · rw [e]; exact ⟨rfl, rfl, rfl, rfl, rfl, rfl⟩
    · exact absurd (hb.symm.trans hidle) nofun
    · rw [e]; exact ⟨rfl, rfl, rfl, rfl, rfl, rfl⟩
    · exact absurd ((isSoftReset_of_ctrl ha hl hw).symm.trans hr) nofun
    · rw [e]; exact ⟨rfl, rfl, rfl, rfl, rfl, rfl⟩
    · rw [e]; exact ⟨rfl, rfl, rfl, rfl, rfl, rfl⟩
    · rw [e]; exact ⟨rfl, rfl, rfl, rfl, rfl, rfl⟩
    · exact absurd (hb.symm.trans hidle) nofun

/-- An access that comes before the completion of its cycle is no soft reset (R407). -/
theorem isSoftReset_of_accessFirst {a : Access} {hf : Bool} (h : accessFirst a hf = true) :
    a.isSoftReset = false := by
  unfold accessFirst at h
  split at h
  case isTrue hstatus =>
    cases a with
    | read => cases hstatus
    | write width off w =>
      have hoff : off = 0x008 := by
        simp only [Access.isStatusWrite, Bool.and_eq_true, beq_iff_eq] at hstatus
        exact hstatus.2
      simp [Access.isSoftReset, hoff]
  case isFalse =>
    split at h
    case isTrue => cases h
    case isFalse hreset => simpa using hreset

/-- An access answers a next state or lies outside the window (spec/20_memory.md R80). -/
theorem hostAccess_outcome (a : Access) (s : State) :
    (∃ t, hostAccess a s = .next t) ∨
      (windowSize ≤ a.off ∧ hostAccess a s = .fault (.outsideWindow a.off)) := by
  unfold hostAccess
  split
  · exact .inl ⟨_, rfl⟩
  · exact .inr ⟨by omega, rfl⟩

/-- What `StepStopsOnlyAsNamed` allows the cycle `c` to answer in the state `s`. -/
def StopsAsNamed (c : Cycle) (s : State) (r : Result) : Prop :=
  (∃ t, r = .next t) ∨
    (∃ a lat hf, c = .run (some a) lat hf ∧ windowSize ≤ a.off ∧ r = .fault (.outsideWindow a.off)) ∨
    (s.status.busy = true ∧
      ∃ i, decode s.cmd = .ok i ∧ operandsWritten i s = false ∧ r = .fault .uninitOperand)

theorem stopsAsNamed_hostAccess (a : Access) (lat hf : Bool) (s u : State) :
    StopsAsNamed (.run (some a) lat hf) s (hostAccess a u) := by
  obtain h | ⟨hw, h⟩ := hostAccess_outcome a u
  · exact .inl h
  · exact .inr (.inl ⟨a, lat, hf, rfl, hw, h⟩)

theorem stopsAsNamed_completion (c : Cycle) {s : State} (hb : s.status.busy = true) :
    StopsAsNamed c s (completion s) := by
  obtain h | ⟨i, hd, hw, h⟩ := completion_outcome s
  · exact .inl h
  · exact .inr (.inr ⟨hb, i, hd, hw, h⟩)

/-- The completion after an access of the same cycle runs the same command on the same operands. -/
theorem stopsAsNamed_completion_after {a : Access} {c : Cycle} {s u : State} (hb : s.status.busy = true)
    (hr : a.isSoftReset = false) (ha : hostAccess a s = .next u) : StopsAsNamed c s (completion u) := by
  obtain ⟨hcmd, hbig, hj, hv, hm, hst⟩ := hostAccess_busy_keeps hb hr ha
  obtain h | ⟨i, hd, hw, h⟩ := completion_outcome u
  · exact .inl h
  · exact .inr (.inr ⟨hb, i, hcmd ▸ hd, (operandsWritten_congr i hbig hj hv hm hst) ▸ hw, h⟩)

/-- Everything that can stop a cycle (spec/20_memory.md R80, spec/60_exceptions.md R406). -/
theorem runCycle_stopsAsNamed (c : Cycle) (s : State) : StopsAsNamed c s (runCycle c s) := by
  cases c with
  | reset => exact .inl ⟨_, rfl⟩
  | run access lat hf =>
    cases hend : s.status.busy && lat with
    | false =>
      cases access with
      | none => exact .inl ⟨s, by simp [runCycle, hend]⟩
      | some a =>
        rw [show runCycle (.run (some a) lat hf) s = hostAccess a s by simp [runCycle, hend]]
        exact stopsAsNamed_hostAccess a lat hf s s
    | true =>
      have hb : s.status.busy = true := by simp_all
      cases access with
      | none =>
        rw [show runCycle (.run none lat hf) s = completion s by simp [runCycle, hend]]
        exact stopsAsNamed_completion _ hb
      | some a =>
        cases hfirst : accessFirst a hf with
        | true =>
          rw [show runCycle (.run (some a) lat hf) s = andThen (hostAccess a s) completion by
            simp [runCycle, hend, hfirst]]
          obtain ⟨u, ha⟩ | ⟨hw, ha⟩ := hostAccess_outcome a s
          · rw [ha]
            exact stopsAsNamed_completion_after hb (isSoftReset_of_accessFirst hfirst) ha
          · rw [ha]
            exact .inr (.inl ⟨a, lat, hf, rfl, hw, rfl⟩)
        | false =>
          rw [show runCycle (.run (some a) lat hf) s = andThen (completion s) (hostAccess a) by
            simp [runCycle, hend, hfirst]]
          obtain ⟨u, hu⟩ | ⟨i, hd, hw, hu⟩ := completion_outcome s
          · rw [hu]
            exact stopsAsNamed_hostAccess a lat hf s u
          · rw [hu]
            exact .inr (.inr ⟨hb, i, hd, hw, rfl⟩)

/-- A cycle with an access is the schedule's own first cycle. -/
theorem schedule_of_nextCycle {s : State} {a : Access} {lat hf : Bool}
    (h : s.nextCycle = .run (some a) lat hf) : ∃ rest, s.schedule = .run (some a) lat hf :: rest := by
  unfold State.nextCycle at h
  cases hs : s.schedule with
  | nil => rw [hs] at h; cases h
  | cons c rest => rw [hs] at h; exact ⟨rest, by rw [← h]; rfl⟩

/-- Settles O28, cycle by cycle (`runCycle_stopsAsNamed`). -/
theorem stepStopsOnlyAsNamed : Obligations.StepStopsOnlyAsNamed := by
  refine ⟨fun s => ?_, fun i s => ⟨exec_of_uninit, (exec_completes_iff i s).2⟩⟩
  obtain h | ⟨a, lat, hf, hc, hw, h⟩ | ⟨hb, i, hd, hw, h⟩ := runCycle_stopsAsNamed s.nextCycle s.advance
  · exact .inl h
  · obtain ⟨rest, hs⟩ := schedule_of_nextCycle hc
    exact .inr (.inl ⟨a, lat, hf, rest, hs, hw, h⟩)
  · have hs : operandsWritten i s.advance = operandsWritten i s :=
      operandsWritten_congr i rfl rfl rfl rfl rfl
    exact .inr (.inr ⟨hb, i, hd, hs ▸ hw, h⟩)

/-! ### The command a step runs -/

theorem completion_of_decode {s : State} {i : Instr} (h : decode s.cmd = .ok i) :
    completion s = exec i s := by
  simp [completion, h]

/-- While BUSY a cycle without an access in which the latency ends is the completion. -/
theorem step_of_latency {s : State} {hf : Bool} (hb : s.status.busy = true)
    (hc : s.nextCycle = .run none true hf) :
    step s = completion { s with schedule := s.schedule.tail, epoch := s.epoch + 1 } := by
  have hev : s.hasEvent = true := by simp [State.hasEvent, hc, hb]
  simp [step_eq, hc, runCycle, hb, State.advance, hev]

/-- A table word that the decoder reads is the command word itself (spec/30_encoding.md R110). -/
theorem decode_of_decodeTableWord {w : Nat} {i : Instr} (hw : w < 2 ^ 32)
    (h : decodeTableWord 32 w = some i) : decode (BitVec.ofNat 32 w) = .ok i := by
  unfold decodeTableWord at h
  rw [Nat.mod_eq_of_lt hw] at h
  split at h
  · rename_i hd
    rw [hd, Option.some.inj h]
  · cases h

/-- Settles O5: the step is the completion (`step_of_latency`) and the completion is `exec` of the decoded
word. -/
theorem stepCompletesDecodedCommand : Obligations.StepCompletesDecodedCommand := by
  constructor
  · intro s i hb hd hs
    have hc : ∃ hf, s.nextCycle = .run none true hf := by
      obtain hs | ⟨hf, rest, hs⟩ := hs
      · exact ⟨false, by rw [State.nextCycle, hs]; rfl⟩
      · exact ⟨hf, by rw [State.nextCycle, hs]; rfl⟩
    obtain ⟨hf, hc⟩ := hc
    rw [step_of_latency hb hc]
    exact completion_of_decode hd
  · intro s w i hw hi
    have hd := decode_of_decodeTableWord hw hi
    rw [step_of_latency (hf := false) rfl rfl, State.withFetchWord, Nat.mod_eq_of_lt hw]
    exact completion_of_decode hd

end Sys2Proof.Machine
end

section
/-! SUPPORT. The control registers of the window: what an aligned 32-bit access answers, and the writes of
CMD, CTRL and STATUS (O7, O22, O24). -/

namespace Sys2Proof.Machine

/-! ### Aligned 32-bit accesses -/

/-- An aligned 32-bit write in the window is the write of the register at its offset (R83). -/
theorem hostAccess_write {off : Nat} (hw : off < windowSize) (ha : off % 4 = 0) (w : Word) (s : State) :
    hostAccess (.write 32 off w) s = .next (s.regWrite (locate off) w) := by
  simp [hostAccess, Access.off, hw, State.busWrite, isAligned32, ha]

/-- An aligned 32-bit read answers the register, unless it is a data word while BUSY (R83). -/
theorem hostAccess_read {off : Nat} {s : State} (hw : off < windowSize) (ha : off % 4 = 0)
    (hd : ((locate off).isData && s.status.busy) = false) :
    hostAccess (.read 32 off) s = .next { s with readData := s.regRead (locate off) } := by
  simp [hostAccess, Access.off, hw, State.busRead, isAligned32, ha, hd]

/-- A read of a data word while BUSY is an open read (R83; log 7). -/
theorem hostAccess_read_busy {off : Nat} {s : State} (hw : off < windowSize) (ha : off % 4 = 0)
    (hd : (locate off).isData = true) (hb : s.status.busy = true) :
    hostAccess (.read 32 off) s = .next s.openRead := by
  simp [hostAccess, Access.off, hw, State.busRead, isAligned32, ha, hd, hb]

/-- A register that is no data word reads the same busy and idle (R83). -/
theorem hostAccess_read_control {off : Nat} {l : Loc} (s : State) (hw : off < windowSize)
    (ha : off % 4 = 0) (hl : locate off = l) (hd : l.isData = false) :
    hostAccess (.read 32 off) s = .next { s with readData := s.regRead l } := by
  subst hl
  exact hostAccess_read hw ha (by rw [hd, Bool.false_and])

/-! ### CMD -/

theorem writeCmd_idle {s : State} (h : s.status.busy = false) (w : Word) :
    s.writeCmd w = { s with cmd := w, status := { s.status with busy := true } } := by
  simp [State.writeCmd, h]

theorem writeCmd_busy {s : State} (h : s.status.busy = true) (w : Word) :
    s.writeCmd w = { s with status := { s.status with cmdovr := true } } := by
  simp [State.writeCmd, h]

/-- Settles O7: the write is `writeCmd`, the completion is that of the decoded word. -/
theorem cmdRegisterAcceptsWhileIdle : Obligations.CmdRegisterAcceptsWhileIdle := by
  have hwrite (s : State) (w : Word) : hostAccess (.write 32 0x00C w) s = .next (s.writeCmd w) :=
    hostAccess_write (by decide) rfl w s
  refine ⟨fun s w hidle => ?_, fun s w hbusy => ?_, fun s w i _ hd => completion_of_decode hd,
    fun s => hostAccess_read_control s (by decide) rfl locate_cmd rfl, rfl⟩
  · rw [hwrite, writeCmd_idle hidle]
  · rw [hwrite, writeCmd_busy hbusy]

/-! ### STATUS -/

/-- Settles O22: the write is `Status.clear`, which clears the written W1C bits and nothing else. -/
theorem statusWriteClearsWrittenOnes : Obligations.StatusWriteClearsWrittenOnes := by
  intro s w
  refine ⟨{ s with status := s.status.clear w }, hostAccess_write (by decide) rfl w s, rfl, rfl, rfl, rfl,
    ?done, ?err, ?cmdovr, ?wrbusy, ?irq⟩
  case irq => simp [State.irq, Status.clear, Bool.and_assoc]
  all_goals simp [Status.clear]

/-! ### CTRL -/

theorem writeCtrl_reset {w : Word} (h : w.getLsbD 0 = true) (s : State) : s.writeCtrl w = s.softReset := by
  rw [State.writeCtrl, if_pos h]

theorem writeCtrl_ie {w : Word} (h : w.getLsbD 0 = false) (s : State) :
    s.writeCtrl w = { s with ie := w.getLsbD 1 } := by
  rw [State.writeCtrl, if_neg (by rw [h]; decide)]

/-- A soft reset gives every control register its reset value (spec/70_reset_and_hazards.md R452). -/
theorem controlIsReset_softReset (s : State) : ControlIsReset s.softReset := by
  simp [ControlIsReset, State.irq]

/-- CTRL reads IE in bit 1 and 0 elsewhere (spec/10_state.md R42). -/
theorem ctrlWord_eq (s : State) : s.ctrlWord = if s.ie then 0x00000002#32 else 0x00000000#32 := by
  unfold State.ctrlWord
  cases s.ie <;> rfl

theorem ctrlWord_getLsbD (s : State) (k : Nat) : s.ctrlWord.getLsbD k = (decide (k = 1) && s.ie) := by
  rw [ctrlWord_eq]
  cases s.ie with
  | false => simp
  | true =>
    rw [if_pos rfl, show (0x00000002#32 : Word) = BitVec.twoPow 32 1 from rfl]
    simp [BitVec.getLsbD_twoPow, eq_comm]

/-- Settles O24: a CTRL write is a soft reset or sets IE, by its bit 0. -/
theorem ctrlWriteResetsOrSetsIe : Obligations.CtrlWriteResetsOrSetsIe := by
  refine ⟨rfl, fun s w => ?_⟩
  have hwrite : hostAccess (.write 32 0x004 w) s = .next (s.writeCtrl w) :=
    hostAccess_write (by decide) rfl w s
  refine ⟨fun h => ?_, fun h => ?_, s.ctrlWord, ?_, ?_, fun k hk => ?_⟩
  · rw [writeCtrl_reset h] at hwrite
    exact ⟨_, hwrite, controlIsReset_softReset s, rfl, rfl, rfl, rfl⟩
  · rw [writeCtrl_ie h] at hwrite
    exact ⟨_, hwrite, rfl, rfl⟩
  · exact hostAccess_read_control s (by decide) rfl locate_ctrl rfl
  · rw [ctrlWord_getLsbD]; rfl
  · simp [ctrlWord_getLsbD, hk]

end Sys2Proof.Machine
end

section
/-! SUPPORT. The data words of the window: what a host write of one word leaves of every other word, and
the views of a bignum (O19, O20, O21). -/

namespace Sys2Proof.Machine

/-! ### Words and limbs of a bignum (spec/10_state.md R33, R53) -/

theorem wordOf_withWord_same (x : Bignum) (k : Fin 8) (w : Word) : wordOf (withWord x k w) k = w := by
  apply BitVec.eq_of_getLsbD_eq
  intro i hi
  rw [getLsbD_wordOf, getLsbD_withWord _ _ _ _ (by omega), if_pos (by omega), decide_eq_true hi,
    Bool.true_and, Nat.add_sub_cancel_left]

theorem wordOf_withWord_other (x : Bignum) {k k' : Fin 8} (w : Word) (h : k' ≠ k) :
    wordOf (withWord x k w) k' = wordOf x k' := by
  have hne : k'.val ≠ k.val := Fin.val_ne_of_ne h
  apply BitVec.eq_of_getLsbD_eq
  intro i hi
  rw [getLsbD_wordOf, getLsbD_wordOf, getLsbD_withWord _ _ _ _ (by omega), if_neg (by omega)]

/-- A bignum is its eight words. -/
theorem bignum_eq_of_words {x y : Bignum} (h : ∀ k : Fin 8, wordOf x k = wordOf y k) : x = y := by
  apply BitVec.eq_of_getLsbD_eq
  intro i hi
  have hword := congrArg (·.getLsbD (i % 32)) (h ⟨i / 32, by omega⟩)
  simpa only [getLsbD_wordOf, Nat.mod_lt i (show 0 < 32 by decide), decide_true, Bool.true_and,
    Nat.div_add_mod] using hword

theorem wordOf_toNat (x : Bignum) (k : Nat) : (wordOf x k).toNat = x.toNat / 2 ^ (32 * k) % 2 ^ 32 := by
  simp [wordOf, Nat.shiftRight_eq_div_pow]

theorem limb_eq (x : Bignum) (k : Nat) : limb x k = x.toNat / 2 ^ (64 * k) % 2 ^ 64 := by
  simp [limb, Nat.shiftRight_eq_div_pow]

/-- A limb is its two words, the even one low (R33, R53). -/
theorem limb_eq_words (x : Bignum) (k : Nat) :
    limb x k = (wordOf x (2 * k)).toNat + 2 ^ 32 * (wordOf x (2 * k + 1)).toNat := by
  have hlow : 32 * (2 * k) = 64 * k := by omega
  have hhigh : 32 * (2 * k + 1) = 64 * k + 32 := by omega
  rw [limb_eq, wordOf_toNat, wordOf_toNat, hlow, hhigh, Nat.pow_add 2 (64 * k) 32, ← Nat.div_div_eq_div_mul,
    show 2 ^ 64 = 2 ^ 32 * 2 ^ 32 from rfl, Nat.mod_mul]

/-- Settles O20: both views are slices of the integer. -/
theorem bignumViewsAgree : Obligations.BignumViewsAgree := by
  intro x
  refine ⟨fun k _ => limb_eq_words x k, ?_⟩
  have := x.isLt
  simp only [limb_eq]
  omega

/-! ### A register with one word written -/

theorem BigCell.hostWrite_written_getLsbD (c : BigCell) (k k' : Fin 8) (w : Word) :
    (c.hostWrite k w).written.getLsbD k' = (c.written.getLsbD k' || k' == k) := by
  have h : (1#8 <<< k.val).getLsbD k' = (k' == k) := by revert k k'; decide
  rw [BigCell.hostWrite, BitVec.getLsbD_or, h]

theorem BigCell.hostRead_hostWrite_same (c : BigCell) (k : Fin 8) (w : Word) (epoch base : Nat) :
    (c.hostWrite k w).hostRead epoch base k = w := by
  rw [BigCell.hostRead_of_written (by rw [hostWrite_written_getLsbD, beq_self_eq_true, Bool.or_true])]
  exact wordOf_withWord_same c.value k w

theorem BigCell.hostRead_hostWrite_other (c : BigCell) {k k' : Fin 8} (h : k' ≠ k) (w : Word)
    (epoch base : Nat) : (c.hostWrite k w).hostRead epoch base k' = c.hostRead epoch base k' := by
  have hvalue : wordOf (c.hostWrite k w).value k' = wordOf c.value k' :=
    wordOf_withWord_other c.value w h
  have hwritten : (c.hostWrite k w).written.getLsbD k' = c.written.getLsbD k' := by
    rw [hostWrite_written_getLsbD, beq_false_of_ne h, Bool.or_false]
  rw [BigCell.hostRead, hvalue, hwritten, BigCell.hostRead]

theorem PointCell.coord_hostWrite_same (q : PointCell) (c : Coord) (k : Fin 8) (w : Word) :
    (q.hostWrite c k w).coord c = (q.coord c).hostWrite k w := by
  cases c <;> rfl

theorem PointCell.coord_hostWrite_other (q : PointCell) {c c' : Coord} (h : c' ≠ c) (k : Fin 8) (w : Word) :
    (q.hostWrite c k w).coord c' = q.coord c' := by
  cases c <;> cases c' <;> simp [PointCell.hostWrite, PointCell.coord] at h ⊢

/-! ### A data word of the window written -/

/-- A location that a host write changes while idle: a MSG, B or J word (spec/20_memory.md R83). -/
def Loc.isWritable : Loc → Bool
  | .msg _ | .big _ _ | .point _ _ _ => true
  | _ => false

/-- A written word reads back (spec/10_state.md R51, R53, R54). -/
theorem regRead_writeData_same (s : State) {l : Loc} (h : l.isWritable = true) (w : Word) :
    (s.writeData l w).regRead l = w := by
  cases l with
  | msg i =>
    simpa [State.writeData, State.regRead] using
      WordCell.hostRead_of_written (c := .of w) rfl s.epoch (offMsg i)
  | big r k => simp [State.writeData, State.regRead, BigCell.hostRead_hostWrite_same]
  | point r c k =>
    simp [State.writeData, State.regRead, PointCell.coord_hostWrite_same, BigCell.hostRead_hostWrite_same]
  | _ => cases h

/-- A write of one data word leaves every other register of the window as it was, an UNINIT word with its
free value (spec/10_state.md R51, R53, R54; log 7). -/
theorem regRead_writeData_other (s : State) {l l' : Loc} (h : l' ≠ l) (w : Word) :
    (s.writeData l w).regRead l' = s.regRead l' := by
  cases l with
  | msg i =>
    cases l' with
    | msg j =>
      have hij : i.val ≠ j.val := fun e => h (congrArg Loc.msg (Fin.ext e.symm))
      simp [State.writeData, State.regRead, hij]
    | _ => rfl
  | big r k =>
    cases l' with
    | big r' k' =>
      by_cases hr : r' = r
      · subst hr
        have hk : k' ≠ k := fun e => h (e ▸ rfl)
        simp [State.writeData, State.regRead, BigCell.hostRead_hostWrite_other _ hk]
      · have hrr : r.val ≠ r'.val := fun e => hr (Fin.ext e.symm)
        simp [State.writeData, State.regRead, hrr]
    | _ => rfl
  | point r c k =>
    cases l' with
    | point r' c' k' =>
      by_cases hr : r' = r
      · subst hr
        by_cases hc : c' = c
        · subst hc
          have hk : k' ≠ k := fun e => h (e ▸ rfl)
          simp [State.writeData, State.regRead, PointCell.coord_hostWrite_same,
            BigCell.hostRead_hostWrite_other _ hk]
        · simp [State.writeData, State.regRead, PointCell.coord_hostWrite_other _ hc]
      · have hrr : r.val ≠ r'.val := fun e => hr (Fin.ext e.symm)
        simp [State.writeData, State.regRead, hrr]
    | _ => rfl
  | _ => rfl

/-- While idle a write of a MSG, B or J word is taken (spec/20_memory.md R83). -/
theorem regWrite_idle {s : State} {l : Loc} (hl : l.isWritable = true) (hidle : s.status.busy = false)
    (w : Word) : s.regWrite l w = s.writeData l w := by
  cases l with
  | msg | big | point => simp [State.regWrite, Loc.isData, hidle]
  | _ => cases hl

theorem Loc.isData_of_isWritable {l : Loc} (h : l.isWritable = true) : l.isData = true := by
  cases l with
  | msg | big | point => rfl
  | _ => cases h

/-- A host write of a data word leaves STATUS as it was. -/
theorem writeData_status (s : State) (l : Loc) (w : Word) : (s.writeData l w).status = s.status := by
  cases l <;> rfl

/-! ### Offsets of data words (spec/10_state.md R50 to R54) -/

/-- The offset of a data word. -/
def Loc.offset : Loc → Nat
  | .v i => offV i
  | .msg i => offMsg i
  | .enc i => 0x100 + 4 * i
  | .big r k => offB r + 4 * k
  | .point r c k => offJ r c + 4 * k
  | _ => 0

/-- A data word is at one aligned offset alone. -/
theorem offset_locate {off : Nat} (ha : off % 4 = 0) (h : (locate off).isData = true) :
    (locate off).offset = off := by
  have all : ∀ k : Fin 1024, (locate (4 * k)).isData = true → (locate (4 * k)).offset = 4 * k := by
    decide +kernel
  have e : 4 * (off / 4) = off := by omega
  by_cases hk : off / 4 < 1024
  · simpa only [e] using all ⟨off / 4, hk⟩ (by simpa only [e] using h)
  · rw [locate_of_outside (by unfold windowSize; omega)] at h
    cases h

theorem isWritable_of_writableData {off : Nat} (ha : off % 4 = 0) (h : IsWritableData off) :
    (locate off).isWritable = true := by
  have all : ∀ k : Fin 1024, IsWritableData (4 * k) → (locate (4 * k)).isWritable = true := by
    unfold IsWritableData
    decide +kernel
  have hk : off / 4 < 1024 := by unfold IsWritableData at h; omega
  have e : 4 * (off / 4) = off := by omega
  simpa only [e] using all ⟨off / 4, hk⟩ (by simpa only [e] using h)

/-- While idle a write of a MSG, B or J word is `writeData` at its location. -/
theorem hostAccess_writeData {s : State} {off : Nat} (hw : off < windowSize) (ha : off % 4 = 0)
    (hl : (locate off).isWritable = true) (hidle : s.status.busy = false) (w : Word) :
    hostAccess (.write 32 off w) s = .next (s.writeData (locate off) w) := by
  rw [hostAccess_write hw ha, regWrite_idle hl hidle]

/-- Settles O19: a data word has one offset (`offset_locate`), and a write of one location leaves every
other (`regRead_writeData_other`). -/
theorem windowReadsBackWrites : Obligations.WindowReadsBackWrites := by
  intro s off w hidle ha hoff
  have hw : off < windowSize := by unfold IsWritableData at hoff; unfold windowSize; omega
  have hl := isWritable_of_writableData ha hoff
  have hd := Loc.isData_of_isWritable hl
  refine ⟨_, hostAccess_writeData hw ha hl hidle w, ?_, fun off' ha' _ hne => ?_⟩
  · rw [hostAccess_read hw ha (by rw [writeData_status, hidle, Bool.and_false]),
      regRead_writeData_same s hl]
  · refine regRead_writeData_other s (fun e => hne ?_) w
    rw [← offset_locate ha hd, ← offset_locate ha' (e ▸ hd), e]

/-! ### A whole bignum written -/

/-- The low `m` words of the register are written and are those of `x`. -/
def BigCell.HoldsLow (c : BigCell) (x : Bignum) (m : Nat) : Prop :=
  ∀ k : Fin 8, k.val < m → c.written.getLsbD k = true ∧ wordOf c.value k = wordOf x k

theorem BigCell.HoldsLow.hostWrite {c : BigCell} {x : Bignum} {k : Fin 8} (h : c.HoldsLow x k) :
    (c.hostWrite k (wordOf x k)).HoldsLow x (k + 1) := by
  intro k' hk'
  by_cases e : k' = k
  · subst e
    exact ⟨by simp [hostWrite_written_getLsbD], wordOf_withWord_same c.value k' _⟩
  · obtain ⟨hwritten, hword⟩ := h k' (by have := Fin.val_ne_of_ne e; omega)
    exact ⟨by rw [hostWrite_written_getLsbD, hwritten, Bool.true_or], (wordOf_withWord_other c.value _ e).trans hword⟩

/-- A register all of whose words are those of `x` holds `x`, written. -/
theorem BigCell.HoldsLow.eq_of {c : BigCell} {x : Bignum} (h : c.HoldsLow x 8) : c = .of x := by
  obtain ⟨value, written⟩ := c
  have hvalue : value = x := bignum_eq_of_words fun k => (h k k.isLt).2
  have hwritten : written = 0xFF#8 := by
    apply BitVec.eq_of_getLsbD_eq
    intro i hi
    have hall : ∀ k : Fin 8, (0xFF#8).getLsbD k = true := by decide
    rw [(h ⟨i, hi⟩ hi).1, hall ⟨i, hi⟩]
  rw [hvalue, hwritten, BigCell.of]

/-- The first `m` of the host's writes of a bignum replace B_r by a register that holds its low `m` words. -/
theorem writeWords_eq {s : State} (hidle : s.status.busy = false) (r : Field) (x : Bignum) (m : Nat)
    (hm : m ≤ 8) :
    ∃ c : BigCell, c.HoldsLow x m ∧
      (List.range m).foldl (fun st k => andThen st (hostAccess (.write 32 (offB r + 4 * k) (wordOf x k))))
        (.next s) = .next { s with b := s.b.set r c } := by
  induction m with
  | zero => exact ⟨s.b[r], fun k hk => absurd hk (Nat.not_lt_zero _), by simp⟩
  | succ m ih =>
    obtain ⟨c, hc, hwrites⟩ := ih (by omega)
    have hloc : locate (offB r + 4 * m) = .big r ⟨m, hm⟩ := locate_big r ⟨m, hm⟩
    have hwindow : offB r + 4 * m < windowSize := by unfold offB windowSize; omega
    have haligned : (offB r + 4 * m) % 4 = 0 := by unfold offB; omega
    refine ⟨c.hostWrite ⟨m, hm⟩ (wordOf x m), BigCell.HoldsLow.hostWrite (k := ⟨m, hm⟩) hc, ?_⟩
    rw [List.range_succ, List.foldl_append, hwrites]
    change hostAccess (.write 32 (offB r + 4 * m) (wordOf x m)) _ = _
    rw [hostAccess_writeData (s := { s with b := s.b.set r c }) hwindow haligned (by rw [hloc]; rfl) hidle,
      hloc]
    simp [State.writeData]

theorem writeBignum_eq {s : State} (hidle : s.status.busy = false) (r : Field) (x : Bignum) :
    writeBignum r x s = .next (s.writeB r x) := by
  obtain ⟨c, hc, h⟩ := writeWords_eq hidle r x 8 le_rfl
  rw [writeBignum, h, hc.eq_of, State.writeB]

/-- Settles O21: the eight writes are `writeB` (`writeBignum_eq`). -/
theorem writtenBignumIsTheOperand : Obligations.WrittenBignumIsTheOperand := by
  intro s r x hidle
  exact ⟨_, writeBignum_eq hidle r x, s.writeB_readB_self r x, s.writeB_writtenB_self r x,
    fun _ hr => s.writeB_other x hr, rfl, rfl, rfl⟩

end Sys2Proof.Machine
end

section
/-! SUPPORT. The words that host reads return (O23). -/

namespace Sys2Proof.Machine

/-! ### The STATUS word (spec/10_state.md R43) -/

theorem Status.word_flags (t : Status) :
    t.word.getLsbD 0 = t.busy ∧ t.word.getLsbD 1 = t.done ∧ t.word.getLsbD 2 = t.err ∧
      t.word.getLsbD 3 = t.flag ∧ t.word.getLsbD 6 = t.cmdovr ∧ t.word.getLsbD 7 = t.wrbusy := by
  obtain ⟨busy, done, err, flag, st, cmdovr, wrbusy⟩ := t
  cases st <;> revert busy done err flag cmdovr wrbusy <;> decide

theorem Status.word_sm3st (t : Status) : t.word.extractLsb' 4 2 = t.sm3st.bits := by
  rw [Status.word, extractLsb'_append_high _ _ 3 2, extractLsb'_append_high _ _ 2 2,
    extractLsb'_append_high _ _ 1 2, extractLsb'_append_high _ _ 0 2,
    extractLsb'_append_low _ _ 0 2 (by decide), extractLsb'_self]

theorem Status.word_reserved (t : Status) : t.word.extractLsb' 8 24 = 0#24 := by
  rw [Status.word, extractLsb'_append_high _ _ 7 24, extractLsb'_append_high _ _ 6 24,
    extractLsb'_append_high _ _ 5 24, extractLsb'_append_high _ _ 4 24, extractLsb'_append_high _ _ 2 24,
    extractLsb'_append_high _ _ 1 24, extractLsb'_append_high _ _ 0 24, extractLsb'_self]

/-! ### The other control registers -/

/-- The two words of SM3LEN are its halves (spec/10_state.md R47). -/
theorem sm3len_words (x : BitVec 64) :
    x.toNat = (x.extractLsb' 32 32).toNat * 2 ^ 32 + (x.extractLsb' 0 32).toNat := by
  have := x.isLt
  simp only [BitVec.extractLsb'_toNat, Nat.shiftRight_eq_div_pow]
  omega

/-! ### Data words -/

/-- While idle a data word reads as its register (spec/20_memory.md R83). -/
theorem hostAccess_read_idle {s : State} {off : Nat} {l : Loc} (hidle : s.status.busy = false)
    (hw : off < windowSize) (ha : off % 4 = 0) (hl : locate off = l) :
    hostAccess (.read 32 off) s = .next { s with readData := s.regRead l } := by
  subst hl
  exact hostAccess_read hw ha (by rw [hidle, Bool.and_false])

/-- While idle a written word of a coordinate reads as its value (spec/10_state.md R54). -/
theorem hostAccess_read_point {s : State} {off : Nat} (hidle : s.status.busy = false) (r : Fin 8)
    (c : Coord) (k : Fin 8) (hoff : off = offJ r c + 4 * k)
    (hwritten : (s.j[r].coord c).written.getLsbD k = true) :
    hostAccess (.read 32 off) s = .next { s with readData := wordOf (s.j[r].coord c).value k } := by
  have hc : c.number ≤ 2 := by cases c <;> decide
  have hw : off < windowSize := by unfold windowSize; unfold offJ at hoff; omega
  have ha : off % 4 = 0 := by unfold offJ at hoff; omega
  rw [hostAccess_read_idle hidle hw ha (hoff ▸ locate_point r c k), State.regRead,
    BigCell.hostRead_of_written hwritten]

/-- Settles O23: each read is that of the register at its offset (`hostAccess_read_control`,
`hostAccess_read_idle`), and the layout lemmas give its word. -/
theorem registerReadsReturnTheirWords : Obligations.RegisterReadsReturnTheirWords := by
  intro s reads
  have control {off : Nat} {l : Loc} (hw : off < windowSize) (ha : off % 4 = 0) (hl : locate off = l)
      (hd : l.isData = false) : reads off (s.regRead l) := hostAccess_read_control s hw ha hl hd
  refine ⟨control (by decide) rfl (l := .id) rfl rfl, ?ctrl, ⟨s.status.word, ?status⟩,
    control (by decide) rfl locate_cmd rfl, ⟨_, control (by decide) rfl (l := .errcode) rfl rfl, ?errcode⟩,
    control (by decide) rfl (l := .cmpres) rfl rfl,
    ⟨_, _, control (by decide) rfl (l := .sm3lenLo) rfl rfl,
      control (by decide) rfl (l := .sm3lenHi) rfl rfl, sm3len_words s.sm3len⟩,
    ⟨_, control (by decide) rfl (l := .enccnt) rfl rfl, ?enccnt⟩,
    ⟨_, control (by decide) rfl (l := .enctop) rfl rfl, ?enctop⟩, ?reserved, fun hidle => ?idle,
    fun hbusy off ha hoff => ?busy⟩
  case ctrl =>
    rw [← ctrlWord_eq]
    exact control (by decide) rfl locate_ctrl rfl
  case status =>
    obtain ⟨hbusy, hdone, herr, hflag, hcmdovr, hwrbusy⟩ := s.status.word_flags
    have hst := s.status.word_sm3st
    exact ⟨control (by decide) rfl locate_status rfl, hbusy, hdone, herr, hflag,
      fun h => by rw [hst, h]; rfl, fun h => by rw [hst, h]; rfl, fun h => by rw [hst, h]; rfl,
      hcmdovr, hwrbusy, s.status.word_reserved⟩
  case errcode | enccnt | enctop => exact BitVec.toNat_setWidth_of_le (by decide)
  case reserved =>
    intro off ha hoff
    have hw : off < windowSize := by unfold IsReserved at hoff; unfold windowSize; omega
    exact control hw ha (locate_of_reserved ha hoff) rfl
  case busy =>
    have hw : off < windowSize := by
      unfold IsReadOnlyData IsWritableData at hoff
      unfold windowSize
      omega
    exact ⟨_, hostAccess_read_busy hw ha (isData_of_data ha hoff) hbusy⟩
  case idle =>
    have data {off : Nat} {l : Loc} (hw : off < windowSize) (ha : off % 4 = 0) (hl : locate off = l) :
        reads off (s.regRead l) := hostAccess_read_idle hidle hw ha hl
    refine ⟨fun i h => ?_, fun i h => ?_, fun i => ?_, fun r k h => ?_, fun r k h => ?_, fun r k h => ?_,
      fun r k h => ?_⟩
    · rw [← WordCell.hostRead_of_written h s.epoch (offV i)]
      exact data (by unfold offV windowSize; omega) (by unfold offV; omega) (locate_v i)
    · rw [← WordCell.hostRead_of_written h s.epoch (offMsg i)]
      exact data (by unfold offMsg windowSize; omega) (by unfold offMsg; omega) (locate_msg i)
    · exact data (by unfold windowSize; omega) (by omega) (locate_enc i)
    · have hread := BigCell.hostRead_of_written h s.epoch (offB r)
      rw [wordOf] at hread
      rw [← hread]
      exact data (by unfold offB windowSize; omega) (by unfold offB; omega) (locate_big r k)
    · exact hostAccess_read_point hidle r .x k rfl h
    · exact hostAccess_read_point hidle r .y k rfl h
    · exact hostAccess_read_point hidle r .z k rfl h

end Sys2Proof.Machine
end

section
/-! SUPPORT. What a host access leaves unchanged: ignored and dropped writes, reads, and every access while
BUSY (O15 to O18). -/

namespace Sys2Proof.Machine

/-! ### Accesses of another width or at a misaligned offset (spec/20_memory.md R81, R82) -/

theorem isAligned32_eq_false {width off : Nat} (h : width ≠ 32 ∨ off % 4 ≠ 0) :
    isAligned32 width off = false := by
  simpa [isAligned32, imp_iff_not_or] using h

theorem hostAccess_write_ignored {width off : Nat} (hw : off < windowSize)
    (ha : isAligned32 width off = false) (w : Word) (s : State) :
    hostAccess (.write width off w) s = .next s := by
  simp [hostAccess, Access.off, hw, State.busWrite, ha]

theorem hostAccess_read_open {width off : Nat} (hw : off < windowSize)
    (ha : isAligned32 width off = false) (s : State) :
    hostAccess (.read width off) s = .next s.openRead := by
  simp [hostAccess, Access.off, hw, State.busRead, ha]

/-- Settles O18: the write is ignored (`hostAccess_write_ignored`), the read is an open one
(`hostAccess_read_open`). -/
theorem wrongWidthOrMisalignedAccess : Obligations.WrongWidthOrMisalignedAccess := by
  intro width off w s hw hbad
  have ha := isAligned32_eq_false hbad
  exact ⟨hostAccess_write_ignored hw ha w s, _, hostAccess_read_open hw ha s⟩

/-! ### Dropped and ignored writes (spec/20_memory.md R83, R84) -/

theorem regWrite_data_busy {s : State} {l : Loc} (hl : l.isData = true) (hb : s.status.busy = true)
    (w : Word) : s.regWrite l w = { s with status := { s.status with wrbusy := true } } := by
  cases l with
  | v | msg | enc | big | point => simp [State.regWrite, Loc.isData, hb]
  | _ => cases hl

/-- The read-only data words are those of V and ENC (spec/10_state.md R50, R52). -/
theorem locate_of_readOnlyData {off : Nat} (ha : off % 4 = 0) (h : IsReadOnlyData off) :
    (∃ i, locate off = .v i) ∨ ∃ i, locate off = .enc i := by
  obtain ⟨hlow, hhigh⟩ | ⟨hlow, hhigh⟩ := h
  · obtain ⟨i, rfl⟩ : ∃ i : Fin 8, off = offV i :=
      ⟨⟨(off - 0x040) / 4, by omega⟩, by unfold offV; dsimp only; omega⟩
    exact .inl ⟨i, locate_v i⟩
  · obtain ⟨i, rfl⟩ : ∃ i : Fin 64, off = 0x100 + 4 * i :=
      ⟨⟨(off - 0x100) / 4, by omega⟩, by dsimp only; omega⟩
    exact .inr ⟨i, locate_enc i⟩

/-- While idle a write of a V or ENC word is ignored (R84). -/
theorem regWrite_readOnlyData_idle {s : State} {off : Nat} (ha : off % 4 = 0) (h : IsReadOnlyData off)
    (hidle : s.status.busy = false) (w : Word) : s.regWrite (locate off) w = s := by
  obtain ⟨i, hi⟩ | ⟨i, hi⟩ := locate_of_readOnlyData ha h <;> rw [hi] <;>
    simp [State.regWrite, Loc.isData, State.writeData, hidle]

/-- Settles O15: each write is the register write at its offset (`hostAccess_write`), which is dropped
for data while BUSY and ignored for a register that takes no write. -/
theorem droppedAndIgnoredDataWrites : Obligations.DroppedAndIgnoredDataWrites := by
  intro s off w ha
  refine ⟨fun hbusy hoff => ?_, fun hidle hoff => ?_, fun hoff => ?_⟩
  · have hw : off < windowSize := by
      unfold IsReadOnlyData IsWritableData at hoff
      unfold windowSize
      omega
    rw [hostAccess_write hw ha, regWrite_data_busy (isData_of_data ha hoff) hbusy]
  · have hw : off < windowSize := by unfold IsReadOnlyData at hoff; unfold windowSize; omega
    rw [hostAccess_write hw ha, regWrite_readOnlyData_idle ha hoff hidle]
  · have hw : off < windowSize := by
      simp only [IsReadOnlyControl, IsReserved, List.mem_cons, List.not_mem_nil, or_false] at hoff
      unfold windowSize
      omega
    rw [hostAccess_write hw ha]
    obtain hcontrol | hreserved := hoff
    · rw [regWrite_readOnly hcontrol]
    · rw [locate_of_reserved ha hreserved]
      rfl

/-! ### Accesses while BUSY (spec/20_memory.md R91, spec/70_reset_and_hazards.md R462) -/

/-- While BUSY an access that is no soft reset changes at most CTRL.IE, the W1C bits of STATUS, the
response and the counter of open reads. -/
theorem hostAccess_busy_eq {a : Access} {s t : State} (hb : s.status.busy = true)
    (hr : a.isSoftReset = false) (h : hostAccess a s = .next t) :
    t = { s with
      ie := t.ie
      status := { s.status with
        done := t.status.done
        err := t.status.err
        cmdovr := t.status.cmdovr
        wrbusy := t.status.wrbusy }
      readData := t.readData
      draws := t.draws } := by
  obtain ⟨-, ⟨width, off, -, ht⟩ | ⟨width, off, w, rfl, ht⟩⟩ := hostAccess_next h
  · obtain e | ⟨-, e⟩ := busRead_cases s width off <;> obtain rfl := ht.trans e <;> rfl
  · obtain e | ⟨-, -, hidle, -⟩ | ⟨-, -, -, e⟩ | ⟨ha, hl, hw, -⟩ | ⟨-, -, -, e⟩ | ⟨-, -, e⟩ |
      ⟨-, -, -, e⟩ | ⟨-, -, hidle, -⟩ := busWrite_cases s width off w
    · obtain rfl := ht.trans e; rfl
    · exact absurd (hb.symm.trans hidle) nofun
    · obtain rfl := ht.trans e; rfl
    · exact absurd ((isSoftReset_of_ctrl ha hl hw).symm.trans hr) nofun
    · obtain rfl := ht.trans e; rfl
    · obtain rfl := ht.trans e; rfl
    · obtain rfl := ht.trans e; rfl
    · exact absurd (hb.symm.trans hidle) nofun

/-- Settles O16: no operand, result or indicator of the running command is among the fields that the
access changes (`hostAccess_busy_eq`). -/
theorem busyAccessesKeepTheCommand : Obligations.BusyAccessesKeepTheCommand := by
  intro a s t hb hr h
  rw [hostAccess_busy_eq hb hr h]
  exact ⟨rfl, rfl, ⟨rfl, rfl, rfl⟩, ⟨rfl, rfl, rfl⟩, rfl, rfl, rfl, rfl, rfl, hb⟩

/-! ### Reads (spec/20_memory.md R92) -/

/-- No register's word depends on the response, the schedule or the counter of open reads. -/
theorem regRead_congr (s : State) (l : Loc) (data : Word) (sched : List Cycle) (k : Nat) :
    { s with readData := data, schedule := sched, draws := k }.regRead l = s.regRead l := by
  cases l <;> rfl

/-- A read changes only the response and the counter of open reads. -/
theorem hostAccess_read_eq {width off : Nat} {s t : State} (h : hostAccess (.read width off) s = .next t) :
    t = { s with readData := t.readData, draws := t.draws } := by
  obtain ⟨-, ⟨_, _, -, ht⟩ | ⟨_, _, _, ⟨⟩, -⟩⟩ := hostAccess_next h
  obtain e | ⟨-, e⟩ := busRead_cases s _ _ <;> obtain rfl := ht.trans e <;> rfl

/-- A read that the spec does not leave open answers the register at its offset, and lies in the window
(R80, R83). -/
theorem eq_of_hostAccess_read {off : Nat} {s t : State} (ha : off % 4 = 0)
    (hd : ((locate off).isData && s.status.busy) = false) (h : hostAccess (.read 32 off) s = .next t) :
    off < windowSize ∧ t = { s with readData := s.regRead (locate off) } := by
  obtain ⟨hw, -⟩ := hostAccess_next h
  exact ⟨hw, Host.Outcome.next.inj (h.symm.trans (hostAccess_read hw ha hd))⟩

/-- A read that the spec does not leave open answers the same when done again. -/
theorem hostAccess_read_again {off : Nat} {s t : State} (ha : off % 4 = 0)
    (hd : ((locate off).isData && s.status.busy) = false) (h : hostAccess (.read 32 off) s = .next t) :
    hostAccess (.read 32 off) t = .next t := by
  obtain ⟨hw, rfl⟩ := eq_of_hostAccess_read ha hd h
  rw [hostAccess_read hw ha ?_]
  · exact congrArg (fun x => Host.Outcome.next { s with readData := x }) (regRead_congr s _ _ _ _)
  · exact hd

/-- While idle a cycle with an access that is no event is that access, the epoch kept (R90). -/
theorem step_of_no_event {s : State} {a : Access} {lat hf : Bool} {rest : List Cycle}
    (hb : s.status.busy = false) (hs : s.schedule = .run (some a) lat hf :: rest)
    (he : a.isWriteEvent = false) :
    step s = hostAccess a { s with schedule := rest } := by
  rw [step_of_access hb hs, he]
  rfl

/-- While idle a cycle with an aligned 32-bit read only takes itself off the schedule and answers the
register. -/
theorem step_of_read {s t : State} {off : Nat} {lat hf : Bool} {rest : List Cycle}
    (h : step s = .next t) (hb : s.status.busy = false)
    (hs : s.schedule = .run (some (.read 32 off)) lat hf :: rest) (ha : off % 4 = 0) :
    t = { s with schedule := rest, readData := s.regRead (locate off) } := by
  rw [step_of_no_event hb hs rfl] at h
  obtain ⟨-, rfl⟩ := eq_of_hostAccess_read ha (by rw [hb, Bool.and_false]) h
  exact congrArg (fun x => { s with schedule := rest, readData := x }) (regRead_congr s _ _ _ _)

/-- While idle a cycle with an ignored write only takes itself off the schedule (R81, R82). -/
theorem step_of_ignored_write {s t : State} {width off : Nat} {w : Word} {lat hf : Bool}
    {rest : List Cycle} (h : step s = .next t) (hb : s.status.busy = false)
    (hs : s.schedule = .run (some (.write width off w)) lat hf :: rest)
    (ha : isAligned32 width off = false) :
    t = { s with schedule := rest } := by
  rw [step_of_no_event hb hs ha] at h
  obtain ⟨hw, -⟩ := hostAccess_next h
  exact Host.Outcome.next.inj (h.symm.trans (hostAccess_write_ignored hw ha w _))

/-- Settles O17: a read answers the register and keeps every field it depends on
(`hostAccess_read_again`); so does an ignored write between two reads (`step_of_ignored_write`). -/
theorem readsHaveNoSideEffect : Obligations.ReadsHaveNoSideEffect := by
  constructor
  · intro width off s t h
    refine ⟨hostAccess_read_eq h, fun hwidth ha hopen => ?_⟩
    subst hwidth
    have hd : ((locate off).isData && s.status.busy) = false :=
      Bool.eq_false_of_not_eq_true fun h => hopen ((Bool.and_eq_true_iff.1 h).symm)
    exact hostAccess_read_again ha hd h
  · intro s t u v off width off' w l1 h1 l2 h2 l3 h3 rest hidle ha hbad hs ht hu hv
    obtain rfl := step_of_read ht hidle hs ha
    obtain rfl := step_of_ignored_write hu hidle rfl (isAligned32_eq_false hbad)
    obtain rfl := step_of_read hv hidle rfl ha
    exact regRead_congr s _ _ _ _

end Sys2Proof.Machine
end

section
/-! SUPPORT. The byte order of the message buffer (O59). -/

namespace Sys2Proof.Machine

/-- A word is its four bytes, most significant first (spec/20_memory.md R86). -/
theorem append_bytes (w : Word) : byteOf w 0 ++ byteOf w 1 ++ byteOf w 2 ++ byteOf w 3 = w := by
  have two : byteOf w 0 ++ byteOf w 1 = w.extractLsb' 16 16 :=
    BitVec.extractLsb'_append_extractLsb'_eq_extractLsb' rfl
  have three : w.extractLsb' 16 16 ++ byteOf w 2 = w.extractLsb' 8 24 :=
    BitVec.extractLsb'_append_extractLsb'_eq_extractLsb' rfl
  have four : w.extractLsb' 8 24 ++ byteOf w 3 = w.extractLsb' 0 32 :=
    BitVec.extractLsb'_append_extractLsb'_eq_extractLsb' rfl
  rw [two, three, four, extractLsb'_self]

/-- The words of the bytes of words are those words (R86). -/
theorem beWords_flatMap_bytesOf (ws : List Word) : beWords (ws.flatMap bytesOf) = ws := by
  induction ws with
  | nil => rfl
  | cons w ws ih =>
    rw [List.flatMap_cons, bytesOf]
    exact congrArg₂ List.cons (append_bytes w) ih

/-- Byte `4i + t` of the bytes of words is byte `t` of word `i` (R86). -/
theorem flatMap_bytesOf_getElem? (ws : List Word) (i : Nat) {t : Nat} (ht : t < 4) :
    (ws.flatMap bytesOf)[4 * i + t]? = ws[i]?.map (byteOf · t) := by
  induction ws generalizing i with
  | nil => rfl
  | cons w ws ih =>
    rw [List.flatMap_cons]
    cases i with
    | zero =>
      rw [List.getElem?_append_left (by simpa [bytesOf] using ht)]
      interval_cases t <;> rfl
    | succ i =>
      have hlen : (bytesOf w).length = 4 := rfl
      rw [List.getElem?_append_right (by omega), List.getElem?_cons_succ, ← ih i, hlen,
        show 4 * (i + 1) + t - 4 = 4 * i + t by omega]

theorem readMsg_getElem? (s : State) (i : Fin 16) : s.readMsg[i.val]? = some s.msg[i].value := by
  simp [State.readMsg]

/-- The first 64 bytes of the message buffer are all of them (R86). -/
theorem readTail_64 (s : State) : s.readTail 64 = s.readMsg.flatMap bytesOf :=
  List.take_of_length_le (by simp [State.readMsg, List.length_flatMap, bytesOf, Function.comp_def])

/-- Settles O59: the bytes of a block are those of its words (`flatMap_bytesOf_getElem?`), and make up the
words again (`beWords_flatMap_bytesOf`). -/
theorem messageBytesAreBigEndian : Obligations.MessageBytesAreBigEndian := by
  intro s
  rw [readTail_64]
  refine ⟨fun i t ht => ?_, beWords_flatMap_bytesOf s.readMsg⟩
  rw [flatMap_bytesOf_getElem? _ _ ht, readMsg_getElem?, Option.map_some, byteOf]

end Sys2Proof.Machine
end

section
/-! SUPPORT. The encoding (spec/30_encoding.md R111 to R122): decoding and encoding undo each other, the
decoder agrees with the match and mask columns of the opcode table, and the examples (O1 to O4). -/

namespace Sys2Proof

/-! ### From an instruction to its word and back -/

/-- Building an instruction from its own opcode and fields gives it back (R113). -/
@[simp] theorem Op.build_fields (i : Instr) : i.op.build i.fields = i := by
  cases i <;> rfl

/-- The checks of R112 on an instruction's operands are those of its format on its fields (R117). -/
theorem Instr.wellFormed_iff_check (i : Instr) :
    i.wellFormed = true ↔ i.op.format.check i.fields = none := by
  rw [Format.check_eq_none]
  cases i <;> simp [Instr.wellFormed, Instr.op, Op.format, Instr.fields, Format.checkImm, and_assoc,
    FieldType.check_point_eq_none, FieldType.check_pair_eq_none]

/-- Settles O2: the fields of the word are those packed into it (`Fields.ofWord_toWord`), they pass the
format's check and build the instruction (`Op.build_fields`). -/
theorem decodeOfEncodeIsIdentity : Obligations.DecodeOfEncodeIsIdentity := by
  intro i hwf
  have hfields : Fields.ofWord (encode i) = i.fields := Fields.ofWord_toWord _
  have hop : Op.ofByte i.fields.op = some i.op := by rw [Instr.fields_op, Op.ofByte_byte]
  rw [decode_eq_ok, hfields]
  exact ⟨i.op, hop, i.wellFormed_iff_check.1 hwf, Op.build_fields i⟩

/-! ### From a word to an instruction and back -/

@[simp] theorem Op.op_build (o : Op) (f : Fields) : (o.build f).op = o := by
  cases o <;> rfl

/-- The part of a register field that the encoder writes: an unused field is written 0 (R114). -/
def FieldType.keep : FieldType → Field → Field
  | .unused, _ => 0
  | .big, f => f
  | .point, f => f
  | .pair, f => f

/-- A field that passes its check is written whole: only an unused one could lose a bit. -/
theorem FieldType.keep_of_check {t : FieldType} {f : Field} (h : t.check f = none) : t.keep f = f := by
  cases t with
  | unused => exact (FieldType.check_unused_eq_none.1 h).symm
  | big => rfl
  | point => rfl
  | pair => rfl

theorem Format.checkImm_eq_none {m : Format} {imm : Fin 64} :
    m.checkImm imm = none ↔ m.imm = true ∨ imm = 0 := by
  rw [Format.checkImm]
  cases m.imm <;> simp

/-- The fields of a built instruction, in one form for every opcode (R114). -/
theorem Op.fields_build (o : Op) (f : Fields) :
    (o.build f).fields = ⟨o.byte, o.format.rd.keep f.rd, o.format.rs1.keep f.rs1,
      o.format.rs2.keep f.rs2, o.format.rs3.keep f.rs3, if o.format.imm then f.imm else 0, 0#2⟩ := by
  cases o <;> rfl

/-- Fields that pass their format's check are those of the instruction built from them. -/
theorem Op.fields_build_of_check {o : Op} {f : Fields} (hop : o.byte = f.op)
    (hc : o.format.check f = none) : (o.build f).fields = f := by
  obtain ⟨hrsv, hrd, hrs1, hrs2, hrs3, himm⟩ := Format.check_eq_none.1 hc
  have himm' : (if o.format.imm then f.imm else 0) = f.imm := by
    obtain h | h := Format.checkImm_eq_none.1 himm <;> simp [h]
  rw [Op.fields_build, hop, FieldType.keep_of_check hrd, FieldType.keep_of_check hrs1,
    FieldType.keep_of_check hrs2, FieldType.keep_of_check hrs3, himm', ← hrsv]

/-- Settles O3: the word's fields are those of the instruction built from them
(`Op.fields_build_of_check`). -/
theorem encodeOfDecodeIsIdentity : Obligations.EncodeOfDecodeIsIdentity := by
  intro w i hd
  obtain ⟨o, ho, hc, rfl⟩ := decode_eq_ok.1 hd
  have hfields := Op.fields_build_of_check (Op.byte_of_ofByte ho) hc
  constructor
  · rw [Instr.wellFormed_iff_check, Op.op_build, hfields]
    exact hc
  · rw [encode, hfields, Fields.toWord_ofWord]

/-! ### The match and mask columns of the opcode table (R115) -/

/-- The bits of a register field that its type fixes to 0 (R112, R113). -/
def FieldType.mask : FieldType → Field
  | .unused => 15
  | .big => 0
  | .point => 8
  | .pair => 1

/-- The bits of the immediate that a format fixes to 0 (R113). -/
def Format.immMask (m : Format) : Fin 64 := if m.imm then 0 else 63

/-- The bits that a format fixes: the opcode, the reserved bits and those of each field's type. -/
def Format.mask (m : Format) : Fields :=
  ⟨0xFF#8, m.rd.mask, m.rs1.mask, m.rs2.mask, m.rs3.mask, m.immMask, 3#2⟩

/-- The fields of a word with every operand 0. -/
def Op.pattern (o : Op) : Fields := ⟨o.byte, 0, 0, 0, 0, 0, 0#2⟩

/-- The rows of R115 are computed by the formats of R113. -/
theorem row_of_format : ∀ r ∈ opcodeTable,
    r.mask = r.op.format.mask.toWord ∧ r.pattern = r.op.pattern.toWord := by
  decide

/-- Each opcode has its row. -/
theorem exists_row (o : Op) : ∃ r ∈ opcodeTable, r.op = o := by
  cases o <;> decide

/-- No opcode has two rows. -/
theorem row_unique : ∀ r ∈ opcodeTable, ∀ r' ∈ opcodeTable, r.op = r'.op → r = r' := by
  decide

/-- A field passes its type's check when the bits that the type fixes are 0. -/
theorem FieldType.check_eq_none_iff_masked (t : FieldType) (f : Field) :
    t.check f = none ↔ Laws.SelectsRow.masked f t.mask = 0#4 := by
  revert f
  cases t <;> decide

theorem Format.checkImm_eq_none_iff_masked (m : Format) (imm : Fin 64) :
    m.checkImm imm = none ↔
      BitVec.ofFin (w := 6) imm &&& BitVec.ofFin (w := 6) m.immMask = 0#6 := by
  rw [Format.checkImm_eq_none, Format.immMask]
  revert imm
  cases m.imm <;> decide

/-- Fields under a mask, field by field. -/
def Fields.and (f m : Fields) : Fields where
  op := f.op &&& m.op
  rd := (Laws.SelectsRow.masked f.rd m.rd).toFin
  rs1 := (Laws.SelectsRow.masked f.rs1 m.rs1).toFin
  rs2 := (Laws.SelectsRow.masked f.rs2 m.rs2).toFin
  rs3 := (Laws.SelectsRow.masked f.rs3 m.rs3).toFin
  imm := (BitVec.ofFin (w := 6) f.imm &&& BitVec.ofFin (w := 6) m.imm).toFin
  rsv := f.rsv &&& m.rsv

theorem Fields.toWord_and (f m : Fields) : f.toWord &&& m.toWord = (f.and m).toWord :=
  Laws.SelectsRow.toWord_and f m

theorem Fields.toWord_inj {f g : Fields} : f.toWord = g.toWord ↔ f = g :=
  ⟨fun h => by rw [← Fields.ofWord_toWord f, h, Fields.ofWord_toWord], congrArg Fields.toWord⟩

/-- The mask leaves the pattern of exactly the fields that have the opcode and pass the check. -/
theorem Op.and_mask_eq_pattern (o : Op) (f : Fields) :
    f.and o.format.mask = o.pattern ↔ f.op = o.byte ∧ o.format.check f = none := by
  have hop : f.op &&& 0xFF#8 = f.op := BitVec.and_allOnes
  have hrsv : f.rsv &&& 3#2 = f.rsv := BitVec.and_allOnes
  have zero4 (x : BitVec 4) : x.toFin = 0 ↔ x = 0#4 := (BitVec.toFin_inj (y := 0#4))
  have zero6 (x : BitVec 6) : x.toFin = 0 ↔ x = 0#6 := (BitVec.toFin_inj (y := 0#6))
  rw [Format.check_eq_none, Format.checkImm_eq_none_iff_masked]
  simp only [FieldType.check_eq_none_iff_masked, Fields.and, Op.pattern, Fields.mk.injEq, zero4, zero6]
  simp only [Format.mask, hop, hrsv]
  tauto

/-- A row selects the words that have its opcode and are legal for its format (R114, R117). -/
theorem Row.selects_iff {r : Row} (hr : r ∈ opcodeTable) (w : Word) :
    r.selects w = true ↔
      Op.ofByte (Fields.ofWord w).op = some r.op ∧ r.op.format.check (Fields.ofWord w) = none := by
  have hbyte : (Fields.ofWord w).op = r.op.byte ↔ Op.ofByte (Fields.ofWord w).op = some r.op :=
    ⟨fun h => by rw [h, Op.ofByte_byte], fun h => (Op.byte_of_ofByte h).symm⟩
  obtain ⟨hmask, hpattern⟩ := row_of_format r hr
  rw [← hbyte, ← Op.and_mask_eq_pattern, ← Fields.toWord_inj, ← Fields.toWord_and, Fields.toWord_ofWord,
    ← hmask, ← hpattern, Row.selects, beq_iff_eq]

/-- A row selects exactly the words that decode to an instruction of its opcode (R119). -/
theorem Row.selects_iff_decode {r : Row} (hr : r ∈ opcodeTable) (w : Word) :
    r.selects w = true ↔ ∃ i, decode w = .ok i ∧ i.op = r.op := by
  rw [Row.selects_iff hr]
  constructor
  · rintro ⟨ho, hc⟩
    exact ⟨_, decode_eq_ok.2 ⟨r.op, ho, hc, rfl⟩, Op.op_build _ _⟩
  · rintro ⟨i, hd, hi⟩
    obtain ⟨o, ho, hc, rfl⟩ := decode_eq_ok.1 hd
    rw [Op.op_build] at hi
    exact hi ▸ ⟨ho, hc⟩

/-- Settles O4: a row selects exactly the words that decode to its opcode (`Row.selects_iff_decode`), and
each opcode has one row. -/
theorem decodeAgreesWithOpcodeTable : Obligations.DecodeAgreesWithOpcodeTable := by
  intro w
  cases hd : decode w with
  | ok i =>
    obtain ⟨r, hr, hop⟩ := exists_row i.op
    have hsel : r.selects w = true := (Row.selects_iff_decode hr w).2 ⟨i, hd, hop.symm⟩
    refine ⟨fun j hj => ?_, ⟨nofun, fun h => ?_⟩⟩
    · obtain rfl := Except.ok.inj hj
      refine ⟨r, hr, hop, hsel, fun r' hr' hsel' => row_unique r' hr' r hr ?_⟩
      obtain ⟨j, hj, hop'⟩ := (Row.selects_iff_decode hr' w).1 hsel'
      obtain rfl := Except.ok.inj (hd.symm.trans hj)
      rw [← hop', hop]
    · rw [h r hr] at hsel
      cases hsel
  | error e =>
    refine ⟨nofun, ⟨fun _ r hr => ?_, fun _ => ⟨e, rfl⟩⟩⟩
    rw [← Bool.not_eq_true, Row.selects_iff_decode hr, hd]
    simp

/-! ### The examples (R122) -/

/-- Settles O1: the decoder evaluated on each word. -/
theorem decodesExampleWords : Obligations.DecodesExampleWords := by
  unfold Obligations.DecodesExampleWords
  decide

end Sys2Proof
end

section
/-! SUPPORT. The completion of an illegal word (spec/30_encoding.md R117) (O6). -/

namespace Sys2Proof.Machine

/-- A completion that writes no destination changes only the indicators (R401, R402). -/
theorem onlyIndicatorsChange_finish (s : State) (c : ResultCode) :
    OnlyIndicatorsChange s (s.finish c) c.bits := by
  have herr : (c != .ok) = (c.bits != 0#4) := by cases c <;> rfl
  have hcompletes : Completes s (s.finish c) c.bits := ⟨rfl, by rw [State.finish_err, herr], rfl, rfl⟩
  exact ⟨rfl, rfl, ⟨rfl, rfl, rfl⟩, ⟨rfl, rfl, rfl⟩, rfl, rfl,
    ⟨rfl, rfl, rfl, rfl, rfl, rfl, rfl, rfl, rfl⟩, hcompletes⟩

theorem completion_of_illegal {s : State} {e : Illegal} (h : decode s.cmd = .error e) :
    completion s = .next (s.finish .illegal) := by
  simp [completion, h, raise]

/-- Past the end of the schedule, or where it says so, the next cycle ends the latency and holds no
access. -/
theorem nextCycle_endsLatency {s : State}
    (h : s.schedule = [] ∨ ∃ hf rest, s.schedule = .run none true hf :: rest) :
    ∃ hf, s.nextCycle = .run none true hf := by
  obtain h | ⟨hf, rest, h⟩ := h
  · exact ⟨false, by rw [State.nextCycle, h, List.headD_nil]⟩
  · exact ⟨hf, by rw [State.nextCycle, h, List.headD_cons]⟩

/-- Settles O6: the cycle is the completion of the illegal word, which is `finish` and nothing else. -/
theorem illegalWordChangesOnlyIndicators : Obligations.IllegalWordChangesOnlyIndicators := by
  intro s e hb hd hs
  obtain ⟨hf, hc⟩ := nextCycle_endsLatency hs
  have hstep : step s = completion s.advance := by simp [step_eq, hc, runCycle, hb]
  have hd' : decode s.advance.cmd = .error e := by rw [State.advance_cmd, hd]
  exact ⟨_, hstep.trans (completion_of_illegal hd'), onlyIndicatorsChange_finish _ .illegal⟩

end Sys2Proof.Machine
end

section
/-! SUPPORT. The completions of the field unit's commands (spec/40_field.md R150 to R166): a command is
settled by its effect, and what it leaves unchanged is said once per kind of destination (O29 to O36). -/

namespace Sys2Proof.Machine

/-! ### Words and successful completions -/

/-- The word of an instruction has its own opcode and fields (spec/30_encoding.md R114). -/
theorem hasWord_fields (i : Instr) :
    HasWord i i.op.byte.toNat i.fields.rd i.fields.rs1 i.fields.rs2 i.fields.rs3 i.fields.imm := by
  have hrsv : i.fields.rsv = 0#2 := by cases i <;> rfl
  simp [HasWord, encode, Fields.toWord_toNat, hrsv]

/-- The indicators after a success whose destinations do not include ERR (spec/60_exceptions.md R401). -/
theorem completes_finish_ok {s u : State} (herr : u.status.err = s.status.err) :
    Completes s (u.finish .ok) 0#4 :=
  ⟨rfl, by simp [herr], rfl, rfl⟩

/-- A command with written operands and a successful effect completes with it. -/
theorem exec_of_effect {i : Instr} {s u : State} (hw : operandsWritten i s = true)
    (he : effect i s = .ok u) : exec i s = .next (u.finish .ok) := by
  rw [exec_of_written hw, he]; rfl

/-! ### One lemma per kind of destination -/

theorem writesBig_finish (s : State) (d : Field) (x : Bignum) :
    WritesBig s ((s.writeB d x).finish .ok) d x.toNat := by
  have hframe : OnlyBigChanges s ((s.writeB d x).finish .ok) :=
    ⟨rfl, ⟨rfl, rfl, rfl⟩, ⟨rfl, rfl, rfl⟩, rfl, rfl, ⟨rfl, rfl, rfl, rfl, rfl, rfl, rfl, rfl, rfl⟩,
      completes_finish_ok rfl⟩
  have hself : ((s.writeB d x).finish .ok).b[d] = .of x := s.writeB_self d x
  exact ⟨by rw [hself]; rfl, by rw [hself]; rfl, fun r hr => s.writeB_other x hr, hframe⟩

theorem onlyFlagChanges_finish (s : State) (x : Bool) :
    OnlyFlagChanges s ((s.writeFlag x).finish .ok) :=
  ⟨rfl, rfl, ⟨rfl, rfl, rfl⟩, ⟨rfl, rfl, rfl⟩, rfl, ⟨rfl, rfl, rfl, rfl, rfl, rfl, rfl, rfl, rfl⟩,
    completes_finish_ok rfl⟩

theorem onlyCmpresChanges_finish (s : State) (w : Word) :
    OnlyCmpresChanges s ((s.writeCmpres w).finish .ok) :=
  ⟨rfl, rfl, ⟨rfl, rfl, rfl⟩, ⟨rfl, rfl, rfl⟩, rfl, ⟨rfl, rfl, rfl, rfl, rfl, rfl, rfl, rfl, rfl⟩,
    completes_finish_ok rfl⟩

/-- A command whose effect is one bignum write. -/
theorem exec_writesBig {i : Instr} {s : State} {d : Field} {x : Bignum}
    (hw : operandsWritten i s = true) (he : effect i s = .ok (s.writeB d x)) :
    ∃ t, exec i s = .next t ∧ WritesBig s t d x.toNat :=
  ⟨_, exec_of_effect hw he, writesBig_finish s d x⟩

/-- A command whose effect is a write of FLAG. -/
theorem exec_writesFlag {i : Instr} {s : State} {x : Bool}
    (hw : operandsWritten i s = true) (he : effect i s = .ok (s.writeFlag x)) :
    ∃ t, exec i s = .next t ∧ OnlyFlagChanges s t ∧ t.status.flag = x :=
  ⟨_, exec_of_effect hw he, onlyFlagChanges_finish s x, rfl⟩

/-! ### Bignum results -/

/-- Settles O29: `addp_toNat` is the value. -/
theorem addpWritesSum : Obligations.AddpWritesSum := by
  intro d a b s
  refine ⟨hasWord_fields (.addp d a b), fun ha hb => ?_⟩
  rw [← addp_toNat]
  exact exec_writesBig (Bool.and_eq_true_iff.2 ⟨ha, hb⟩) rfl

/-- Settles O30: `subp_toInt` is the value. -/
theorem subpWritesDifference : Obligations.SubpWritesDifference := by
  intro d a b s
  refine ⟨hasWord_fields (.subp d a b), fun ha hb => ?_⟩
  rw [← subp_toInt, Int.toNat_natCast]
  exact exec_writesBig (Bool.and_eq_true_iff.2 ⟨ha, hb⟩) rfl

/-- Settles O31: `mulp_toNat` and `sqrp_toNat` are the values. -/
theorem mulpAndSqrpWriteProduct : Obligations.MulpAndSqrpWriteProduct := by
  refine ⟨fun d a b s => ⟨hasWord_fields (.mulp d a b), fun ha hb => ?_⟩,
    fun d a s => ⟨hasWord_fields (.sqrp d a), fun ha => ?_⟩⟩
  · rw [← mulp_toNat]
    exact exec_writesBig (Bool.and_eq_true_iff.2 ⟨ha, hb⟩) rfl
  · rw [Nat.pow_two, ← sqrp_toNat]
    exact exec_writesBig ha rfl

/-- Settles O32: `modp_toNat` is the value. -/
theorem modpReducesTwoHalves : Obligations.ModpReducesTwoHalves := by
  intro d lo hi s
  refine ⟨hasWord_fields (.modp d lo hi), fun hlo hhi => ?_⟩
  rw [← modp_toNat]
  exact exec_writesBig (Bool.and_eq_true_iff.2 ⟨hlo, hhi⟩) rfl

/-- Settles O34: `addn_toNat` is the value. -/
theorem addnWritesSumModOrder : Obligations.AddnWritesSumModOrder := by
  intro d a b s
  refine ⟨hasWord_fields (.addn d a b), fun ha hb => ?_⟩
  rw [← addn_toNat]
  exact exec_writesBig (Bool.and_eq_true_iff.2 ⟨ha, hb⟩) rfl

/-! ### Inversion -/

theorem isZeroP_eq_false {a : Bignum} (h : a.toNat % p ≠ 0) : isZeroP a = false := by
  simpa [isZeroP] using h

theorem effect_invp_of_zero {d a : Field} {s : State} (h : (s.readB a).toNat % p = 0) :
    effect (.invp d a) s = .error .inv := by
  have hz : isZeroP (s.readB a) = true := by simpa [isZeroP] using h
  simp [effect, invp, hz, Except.map]

theorem effect_invp_of_ne_zero {d a : Field} {s : State} (h : (s.readB a).toNat % p ≠ 0) :
    effect (.invp d a) s = .ok (s.writeB d (inverseP (s.readB a))) := by
  simp [effect, invp, isZeroP_eq_false h, Except.map]

/-- Settles O33: `inverseP_spec` and `inverseP_unique` say that the value is the one inverse. -/
theorem invpWritesInverse : Obligations.InvpWritesInverse := by
  intro d a s
  refine ⟨hasWord_fields (.invp d a), fun hw hzero => ?_, fun hw hne => ?_⟩
  · have hexec : exec (.invp d a) s = .next (s.finish .inv) := by
      rw [exec_of_written (i := .invp d a) hw, effect_invp_of_zero hzero]; rfl
    exact ⟨_, hexec, onlyIndicatorsChange_finish s .inv⟩
  · obtain ⟨t, hexec, hwrites⟩ := exec_writesBig (i := .invp d a) hw (effect_invp_of_ne_zero hne)
    have hz := isZeroP_eq_false hne
    obtain ⟨hpos, hlt, hmul⟩ := inverseP_spec hz
    exact ⟨t, _, hexec, hwrites, hpos, hlt, hmul, fun y hy => inverseP_unique hz hy⟩

/-! ### FLAG and CMPRES -/

/-- Settles O35: the written flag decides the command's own range check. -/
theorem predicatesSetFlag : Obligations.PredicatesSetFlag := by
  refine ⟨fun a s => ⟨hasWord_fields (.chkn a), fun ha => ?_⟩,
    fun a s => ⟨hasWord_fields (.isval a), fun ha => ?_⟩⟩
  · obtain ⟨t, hexec, hframe, hflag⟩ := exec_writesFlag (i := .chkn a) ha rfl
    exact ⟨t, hexec, hframe, by rw [hflag, inDomainN, decide_eq_true_iff]⟩
  · obtain ⟨t, hexec, hframe, hflag⟩ := exec_writesFlag (i := .isval a) ha rfl
    exact ⟨t, hexec, hframe, by rw [hflag, isValid, decide_eq_true_iff]⟩

theorem compare_of_lt {a b : Bignum} (h : a.toNat < b.toNat) : compare a b = 0xFFFFFFFF#32 := if_pos h

theorem compare_of_eq {a b : Bignum} (h : a.toNat = b.toNat) : compare a b = 0x00000000#32 := by
  rw [compare, if_neg h.not_lt, if_pos h]

theorem compare_of_gt {a b : Bignum} (h : b.toNat < a.toNat) : compare a b = 0x00000001#32 := by
  rw [compare, if_neg h.not_gt, if_neg h.ne']

/-- Settles O36: CMPRES is `compare`, which has one lemma per order of the operands. -/
theorem cmpWritesOrder : Obligations.CmpWritesOrder := by
  intro a b s
  refine ⟨hasWord_fields (.cmp a b), fun ha hb => ?_⟩
  have hexec := exec_of_effect (i := .cmp a b) (Bool.and_eq_true_iff.2 ⟨ha, hb⟩) rfl
  exact ⟨_, hexec, onlyCmpresChanges_finish s _, compare_of_lt, compare_of_eq, compare_of_gt⟩

end Sys2Proof.Machine
end

section
/-! SUPPORT. The datapaths that correct or fold a value until it fits, then subtract the modulus once
(spec/40_field.md R151, R153, R155, R158, R163): each keeps the residue and ends below `2 p` (O37, O38). -/

namespace Sys2Proof.Machine

/-! ### The final subtraction -/

/-- Below twice the modulus one subtraction gives the residue. -/
theorem subtractOnce_eq_mod {m r : Nat} (h : r < 2 * m) : subtractOnce m r = r % m := by
  unfold subtractOnce
  split
  · next hle => rw [Nat.mod_eq_sub_mod hle, Nat.mod_eq_of_lt (by omega)]
  · next hlt => rw [Nat.mod_eq_of_lt (by omega)]

/-! ### Addition -/

/-- Dropping the carry and adding `2^256 - m` subtracts `m`, which keeps the residue. -/
theorem foldCarry_mod {m neg : Nat} (hneg : m + neg = 2 ^ 256) :
    ∀ turns s, s < 2 ^ 257 → foldCarry neg turns s % m = s % m
  | 0, _, _ => rfl
  | turns + 1, s, hs => by
    rw [foldCarry]
    split
    · next hcarry =>
      have hsub : s % 2 ^ 256 + neg = s - m := by omega
      rw [hsub, foldCarry_mod hneg turns _ (by omega), ← Nat.mod_eq_sub_mod (by omega)]
    · rfl

/-- Two corrections of a 257-bit sum leave less than `2 m`, when `m` has 256 bits. -/
theorem foldCarry_lt {m neg s : Nat} (hneg : m + neg = 2 ^ 256) (hm : 2 ^ 255 ≤ m) (hs : s < 2 ^ 257) :
    foldCarry neg 2 s < 2 * m := by
  simp only [foldCarry]
  split_ifs <;> omega

/-- The add-then-correct pattern with modulus `m` (R151, R163). -/
theorem subtractOnce_foldCarry {m neg : Nat} (hneg : m + neg = 2 ^ 256) (hm : 2 ^ 255 ≤ m)
    (a b : Bignum) :
    subtractOnce m (foldCarry neg 2 (a.toNat + b.toNat)) = (a.toNat + b.toNat) % m := by
  have hs : a.toNat + b.toNat < 2 ^ 257 := by have := a.isLt; have := b.isLt; omega
  rw [subtractOnce_eq_mod (foldCarry_lt hneg hm hs), foldCarry_mod hneg 2 _ hs]

/-! ### Subtraction -/

theorem addBack_emod : ∀ turns d, addBack turns d % (p : Int) = d % p
  | 0, _ => rfl
  | turns + 1, d => by
    rw [addBack]
    split
    · rw [addBack_emod turns, Int.add_emod_right]
    · rfl

/-- Two corrections bring a difference of bignums into `[0, 2p)` (R153). -/
theorem addBack_range {d : Int} (hlo : -2 ^ 256 < d) (hhi : d < 2 ^ 256) :
    0 ≤ addBack 2 d ∧ addBack 2 d < 2 * p := by
  have hp : (2 : Int) ^ 255 ≤ p := by decide
  simp only [addBack]
  split_ifs <;> omega

theorem subpDatapath_eq (a b : Bignum) : subpDatapath a b = (subp a b).toNat := by
  have hrange := addBack_range (d := (a.toNat : Int) - b.toNat)
    (by have := b.isLt; omega) (by have := a.isLt; omega)
  have hresidue : (((addBack 2 (a.toNat - b.toNat)).toNat % p : Nat) : Int) = (subp a b).toNat := by
    rw [Int.natCast_mod, Int.toNat_of_nonneg hrange.1, addBack_emod, subp_toInt]
  rw [subpDatapath, subtractOnce_eq_mod (by omega)]
  exact_mod_cast hresidue

/-- Settles O37: each datapath keeps the residue and ends below twice its modulus. -/
theorem addAndSubtractDatapathsAgree : Obligations.AddAndSubtractDatapathsAgree := by
  intro a b
  refine ⟨?_, subpDatapath_eq a b, ?_⟩
  · rw [addp_toNat]
    exact subtractOnce_foldCarry (by decide) (by decide) a b
  · rw [addn_toNat]
    exact subtractOnce_foldCarry (by decide) (by decide) a b

/-! ### Reduction of a wide value -/

/-- The shifted additions of one pass multiply the high part by `2^256 - p` (R158). -/
theorem foldPass_eq (v : Nat) : foldPass v = v % 2 ^ 256 + v / 2 ^ 256 * negP := by
  simp only [foldPass, negP]
  omega

theorem foldPass_mod (v : Nat) : foldPass v % p = v % p := by
  have hsplit : v = foldPass v + p * (v / 2 ^ 256) := by
    have := Nat.div_add_mod v (2 ^ 256)
    rw [foldPass_eq]
    unfold negP p
    omega
  conv_rhs => rw [hsplit, Nat.add_mul_mod_self_left]

theorem foldPasses_mod : ∀ passes v, foldPasses passes v % p = v % p
  | 0, _ => rfl
  | passes + 1, v => by
    rw [foldPasses]
    split
    · rw [foldPasses_mod passes, foldPass_mod]
    · rfl

/-- Every pass takes 30 bits off the excess over `2^256`, and a last one the carry. -/
theorem foldPasses_lt : ∀ passes v, v < 2 ^ 256 + 2 ^ (240 + 30 * passes) →
    foldPasses (passes + 1) v < 2 ^ 256
  | 0, v, hv => by
    simp only [foldPasses, foldPass_eq, negP]
    split_ifs <;> omega
  | passes + 1, v, hv => by
    rw [foldPasses]
    split
    · refine foldPasses_lt passes _ ?_
      have hpow : 2 ^ (240 + 30 * (passes + 1)) = 2 ^ 270 * 2 ^ (30 * passes) := by
        rw [← Nat.pow_add]; congr 1; omega
      have hone : 1 ≤ 2 ^ (30 * passes) := Nat.one_le_two_pow
      rw [hpow] at hv
      rw [foldPass_eq, negP, Nat.pow_add]
      omega
    · omega

/-- The folding datapath is reduction mod p on every 512-bit value (R158, R159). -/
theorem modpDatapath_eq {v : Nat} (hv : v < 2 ^ 256 * 2 ^ 256) : modpDatapath v = v % p := by
  have hfits : foldPasses 16 v < 2 ^ 256 := foldPasses_lt 15 v (by omega)
  have hp : 2 ^ 256 ≤ 2 * p := by decide
  rw [modpDatapath, subtractOnce_eq_mod (by omega), foldPasses_mod]

/-! ### The product -/

/-- A bignum is the sum of its four limbs (spec/10_state.md R33). -/
theorem toNat_eq_limbs (x : Bignum) :
    x.toNat = limb x 0 + 2 ^ 64 * limb x 1 + (2 ^ 64) ^ 2 * limb x 2 + (2 ^ 64) ^ 3 * limb x 3 := by
  rw [← pow_mul, ← pow_mul]
  exact (bignumViewsAgree x).2

/-- A product of two numbers of four digits, multiplied out. -/
theorem sum_digit_products (base : Nat) (f g : Nat → Nat) :
    ((List.range 4).map fun i => ((List.range 4).map fun j => f i * g j * base ^ (i + j)).sum).sum =
      (f 0 + base * f 1 + base ^ 2 * f 2 + base ^ 3 * f 3) *
        (g 0 + base * g 1 + base ^ 2 * g 2 + base ^ 3 * g 3) := by
  simp only [List.range_succ, List.range_zero, List.map_cons, List.map_nil, List.nil_append,
    List.cons_append, List.sum_cons, List.sum_nil]
  ring

/-- The sixteen limb products add up to the product (R155). -/
theorem schoolbook_eq (a b : Bignum) : schoolbook a b = a.toNat * b.toNat := by
  simp only [schoolbook, pow_mul]
  rw [sum_digit_products, ← toNat_eq_limbs, ← toNat_eq_limbs]

/-- Settles O38: the sixteen limb products add up to the product, and folding reduces mod p. -/
theorem reductionDatapathAgrees : Obligations.ReductionDatapathAgrees := by
  refine ⟨fun lo hi => ?_, fun a b => ⟨schoolbook_eq a b, ?_⟩⟩
  · have hwide : hi.toNat * 2 ^ 256 + lo.toNat < 2 ^ 256 * 2 ^ 256 := by have := lo.isLt; have := hi.isLt; omega
    rw [modpDatapath_eq hwide, modp_toNat]
  · rw [mulpDatapath, schoolbook_eq, modpDatapath_eq (Nat.mul_lt_mul'' a.isLt b.isLt), mulp_toNat]

end Sys2Proof.Machine
end

section
/-! SUPPORT. The inversion datapath (spec/40_field.md R161): `x1 a = u` and `x2 a = v` mod p with `u` and
`v` coprime, kept by every turn, while `u v` at least halves, so that 512 turns end at 1 (O39). -/

namespace Sys2Proof.Machine

/-! ### Halving -/

/-- The coefficient that goes with a halved operand. -/
def halveResidue (x : Nat) : Nat := if x % 2 = 0 then x / 2 else (x + p) / 2

theorem halve_even {u : Nat} (h : u % 2 = 0) (turns x : Nat) :
    halve (turns + 1) u x = halve turns (u / 2) (halveResidue x) := if_pos h

theorem halve_odd {u : Nat} (h : u % 2 = 1) (turns x : Nat) : halve turns u x = (u, x) := by
  cases turns with
  | zero => rfl
  | succ turns => rw [halve, if_neg (by omega)]

theorem p_odd : p % 2 = 1 := by decide

theorem two_mul_halveResidue (x : Nat) : 2 * (halveResidue x : ZMod p) = x := by
  unfold halveResidue
  split
  · have h : 2 * (x / 2) = x := by omega
    exact_mod_cast congrArg (Nat.cast (R := ZMod p)) h
  · have h : 2 * ((x + p) / 2) = x + p := by have := p_odd; omega
    simpa using congrArg (Nat.cast (R := ZMod p)) h

/-- A factor 2 cancels mod p. -/
theorem two_mul_cancel {x y : ZMod p} (h : 2 * x = 2 * y) : x = y := by
  have htwo : IsUnit (2 : ZMod p) := by
    simpa using (ZMod.isUnit_iff_coprime 2 p).2 (by decide)
  exact htwo.mul_left_cancel h

theorem halve_spec (a : ZMod p) : ∀ {turns u x : Nat}, 0 < u → u < 2 ^ turns → (x : ZMod p) * a = u →
    (halve turns u x).1 ∣ u ∧ (halve turns u x).1 % 2 = 1 ∧
      ((halve turns u x).2 : ZMod p) * a = (halve turns u x).1
  | 0, u, x, hpos, hlt, _ => by simp at hlt; omega
  | turns + 1, u, x, hpos, hlt, hx => by
    obtain hodd | heven := (Nat.mod_two_eq_zero_or_one u).symm
    · rw [halve_odd hodd]
      exact ⟨dvd_rfl, hodd, hx⟩
    · have hu : 2 * (u / 2) = u := by omega
      have hhalf : (halveResidue x : ZMod p) * a = (u / 2 : Nat) := by
        refine two_mul_cancel ?_
        rw [← mul_assoc, two_mul_halveResidue, hx]
        exact_mod_cast (congrArg (Nat.cast (R := ZMod p)) hu).symm
      rw [pow_succ] at hlt
      obtain ⟨hdvd, hodd, hres⟩ := halve_spec a (by omega) (show u / 2 < 2 ^ turns by omega) hhalf
      rw [halve_even heven]
      exact ⟨hdvd.trans ⟨2, by omega⟩, hodd, hres⟩

/-- An odd divisor of an even number is a divisor of its half. -/
theorem two_mul_le_of_dvd {u w : Nat} (hw : w ∣ u) (hodd : w % 2 = 1) (heven : u % 2 = 0) (hpos : 0 < u) :
    2 * w ≤ u := by
  have hc : Nat.Coprime 2 w := (Nat.coprime_two_left).2 (Nat.odd_iff.2 hodd)
  exact Nat.le_of_dvd hpos (hc.mul_dvd_of_dvd_of_dvd (Nat.dvd_of_mod_eq_zero heven) hw)

theorem subResidue_cast (x y : Nat) : (subResidue x y : ZMod p) = x - y := by
  have hnonneg : 0 ≤ ((x : Int) - y) % p := Int.emod_nonneg _ (by decide)
  have hcast : ((subResidue x y : Int) : ZMod p) = (((x : Int) - y : Int) : ZMod p) := by
    rw [subResidue, Int.toNat_of_nonneg hnonneg, ZMod.intCast_mod]
  simpa using hcast

/-! ### What every turn keeps -/

/-- The operands are coprime multiples of `a` mod p, and 256 halvings make each of them odd. -/
structure KaliskiInv (a : ZMod p) (u v x1 x2 : Nat) : Prop where
  coprime : Nat.Coprime u v
  u_lt : u < 2 ^ 256
  v_lt : v < 2 ^ 256
  u_eq : (x1 : ZMod p) * a = u
  v_eq : (x2 : ZMod p) * a = v

section
variable {a : ZMod p} {u v x1 x2 : Nat}

theorem KaliskiInv.swap (h : KaliskiInv a u v x1 x2) : KaliskiInv a v u x2 x1 :=
  ⟨h.coprime.symm, h.v_lt, h.u_lt, h.v_eq, h.u_eq⟩

/-- Before the loop ends, neither operand is 0. -/
theorem KaliskiInv.u_pos (h : KaliskiInv a u v x1 x2) (hv : v ≠ 1) : 0 < u := by
  refine Nat.pos_of_ne_zero fun hu => hv ?_
  simpa [hu] using h.coprime

theorem KaliskiInv.halve_left (h : KaliskiInv a u v x1 x2) (hu : 0 < u) :
    KaliskiInv a (halve 256 u x1).1 v (halve 256 u x1).2 x2 := by
  obtain ⟨hdvd, -, hres⟩ := halve_spec a hu h.u_lt h.u_eq
  exact ⟨h.coprime.coprime_dvd_left hdvd, (Nat.le_of_dvd hu hdvd).trans_lt h.u_lt, h.v_lt, hres, h.v_eq⟩

theorem KaliskiInv.subtract (h : KaliskiInv a u v x1 x2) (hle : v ≤ u) :
    KaliskiInv a (u - v) v (subResidue x1 x2) x2 := by
  refine ⟨(Nat.coprime_sub_self_left hle).2 h.coprime, (Nat.sub_le u v).trans_lt h.u_lt, h.v_lt, ?_, h.v_eq⟩
  rw [subResidue_cast, sub_mul, h.u_eq, h.v_eq, Nat.cast_sub hle]

/-! ### Why 512 turns suffice -/

/-- The product of the operands fits the turns that are left, with one bit to spare if the next turn
begins with a halving. -/
def FitsTurns (turns u v : Nat) : Prop :=
  u * v < 2 ^ turns ∨ (u * v % 2 = 0 ∧ u * v < 2 ^ (turns + 1))

theorem FitsTurns.swap {turns : Nat} (h : FitsTurns turns u v) : FitsTurns turns v u := by
  rwa [FitsTurns, Nat.mul_comm v u]

/-- With no turn left the product is 0, and the other operand of a 0 is 1. -/
theorem KaliskiInv.eq_one_of_fits (h : KaliskiInv a u v x1 x2) (hf : FitsTurns 0 u v) : u = 1 ∨ v = 1 := by
  have hzero : u * v = 0 := by unfold FitsTurns at hf; omega
  obtain hu | hv := Nat.mul_eq_zero.1 hzero
  · exact .inr (by simpa [hu] using h.coprime)
  · exact .inl (by simpa [hv] using h.coprime)

/-- Made odd, the operands lose the spare bit. -/
theorem FitsTurns.mul_lt_of_dvd {turns u' v' : Nat} (hf : FitsTurns turns u v) (hu : 0 < u) (hv : 0 < v)
    (hu' : u' ∣ u) (hv' : v' ∣ v) (hou : u' % 2 = 1) (hov : v' % 2 = 1) : u' * v' < 2 ^ turns := by
  have hpos : 0 < u * v := Nat.mul_pos hu hv
  have hdvd : u' * v' ∣ u * v := Nat.mul_dvd_mul hu' hv'
  obtain hlt | ⟨heven, hlt⟩ := hf
  · exact (Nat.le_of_dvd hpos hdvd).trans_lt hlt
  · have hodd : u' * v' % 2 = 1 := by rw [Nat.mul_mod, hou, hov]
    have := two_mul_le_of_dvd hdvd hodd heven hpos
    rw [pow_succ] at hlt
    omega

/-- The difference of odd operands is even: the next turn begins with a halving. -/
theorem fitsTurns_sub {turns : Nat} (hu : u % 2 = 1) (hv : v % 2 = 1) (hle : v ≤ u)
    (hlt : u * v < 2 ^ (turns + 1)) : FitsTurns turns (u - v) v := by
  have heven : (u - v) % 2 = 0 := by omega
  exact .inr ⟨by simp [Nat.mul_mod, heven], (Nat.mul_le_mul_right v (Nat.sub_le u v)).trans_lt hlt⟩

/-! ### The loop -/

theorem kaliskiLoop_of_one (h : u = 1 ∨ v = 1) (turns x1 x2 : Nat) :
    kaliskiLoop turns u v x1 x2 = if u = 1 then x1 % p else x2 % p := by
  cases turns with
  | zero => rfl
  | succ turns => rw [kaliskiLoop, if_neg (by tauto)]

theorem kaliskiLoop_turn (hu : u ≠ 1) (hv : v ≠ 1) (turns x1 x2 : Nat) :
    kaliskiLoop (turns + 1) u v x1 x2 =
      if (halve 256 v x2).1 ≤ (halve 256 u x1).1 then
        kaliskiLoop turns ((halve 256 u x1).1 - (halve 256 v x2).1) (halve 256 v x2).1
          (subResidue (halve 256 u x1).2 (halve 256 v x2).2) (halve 256 v x2).2
      else
        kaliskiLoop turns (halve 256 u x1).1 ((halve 256 v x2).1 - (halve 256 u x1).1)
          (halve 256 u x1).2 (subResidue (halve 256 v x2).2 (halve 256 u x1).2) := by
  rw [kaliskiLoop, if_pos ⟨hu, hv⟩]

theorem KaliskiInv.mul_eq_one (h : KaliskiInv a u v x1 x2) (hone : u = 1 ∨ v = 1) (turns : Nat) :
    (kaliskiLoop turns u v x1 x2 : ZMod p) * a = 1 := by
  rw [kaliskiLoop_of_one hone]
  split
  · next hu => rw [ZMod.natCast_mod, h.u_eq, hu, Nat.cast_one]
  · next hu => rw [ZMod.natCast_mod, h.v_eq, hone.resolve_left hu, Nat.cast_one]

end

/-- Within the turns that the product of the operands allows, the loop ends with an inverse of `a`. -/
theorem kaliskiLoop_mul (a : ZMod p) : ∀ {turns u v x1 x2 : Nat}, KaliskiInv a u v x1 x2 →
    FitsTurns turns u v → (kaliskiLoop turns u v x1 x2 : ZMod p) * a = 1
  | 0, u, v, x1, x2, h, hf => h.mul_eq_one (h.eq_one_of_fits hf) 0
  | turns + 1, u, v, x1, x2, h, hf => by
    by_cases hone : u = 1 ∨ v = 1
    · exact h.mul_eq_one hone _
    obtain ⟨hu, hv⟩ := not_or.1 hone
    have hupos := h.u_pos hv
    have hvpos := h.swap.u_pos hu
    have hhalved := ((h.halve_left hupos).swap.halve_left hvpos).swap
    obtain ⟨hudvd, huodd, -⟩ := halve_spec a hupos h.u_lt h.u_eq
    obtain ⟨hvdvd, hvodd, -⟩ := halve_spec a hvpos h.v_lt h.v_eq
    have hlt := hf.mul_lt_of_dvd hupos hvpos hudvd hvdvd huodd hvodd
    rw [kaliskiLoop_turn hu hv]
    split
    · next hle => exact kaliskiLoop_mul a (hhalved.subtract hle) (fitsTurns_sub huodd hvodd hle hlt)
    · next hle =>
      have hle' := (not_le.1 hle).le
      rw [Nat.mul_comm] at hlt
      exact kaliskiLoop_mul a (hhalved.swap.subtract hle').swap (fitsTurns_sub hvodd huodd hle' hlt).swap

theorem kaliskiLoop_lt : ∀ turns u v x1 x2, kaliskiLoop turns u v x1 x2 < p
  | 0, u, v, x1, x2 => by
    rw [kaliskiLoop]
    split <;> exact Nat.mod_lt _ p_pos
  | turns + 1, u, v, x1, x2 => by
    by_cases hone : u = 1 ∨ v = 1
    · rw [kaliskiLoop_of_one hone]
      split <;> exact Nat.mod_lt _ p_pos
    · obtain ⟨hu, hv⟩ := not_or.1 hone
      rw [kaliskiLoop_turn hu hv]
      split <;> exact kaliskiLoop_lt turns _ _ _ _

/-- Settles O39: the loop starts with coprime multiples of the operand whose product has 512 bits. -/
theorem inversionDatapathAgrees : Obligations.InversionDatapathAgrees := by
  intro a hne
  have hcoprime : Nat.Coprime a.toNat p :=
    (p_prime.coprime_iff_not_dvd.2 fun hdvd => hne (Nat.mod_eq_zero_of_dvd hdvd)).symm
  have hstart : KaliskiInv (a.toNat : ZMod p) a.toNat p 1 0 :=
    ⟨hcoprime, a.isLt, p_lt, by simp, by simp⟩
  have hfits : FitsTurns 512 a.toNat p := .inl (by
    rw [Nat.pow_add 2 256 256]; exact Nat.mul_lt_mul'' a.isLt p_lt)
  have hmul := kaliskiLoop_mul _ hstart hfits
  refine ⟨?_, kaliskiLoop_lt _ _ _ _ _⟩
  have hmod : ((a.toNat * kaliski a : Nat) : ZMod p) = (1 : Nat) := by
    rw [Nat.cast_mul, mul_comm, Nat.cast_one]
    exact hmul
  exact (ZMod.natCast_eq_natCast_iff' _ _ _).1 hmod

end Sys2Proof.Machine
end

section
/-! SUPPORT. The value functions of the point unit (spec/41_point.md R200 to R212) as polynomials in
`ZMod p`: every coordinate they compute is canonical, so its residue class determines it (O45 to O47). -/

namespace Sys2Proof.Machine

/-! ### Residues of integers and constants -/

/-- The integer of a bignum has the bignum's residue class. -/
theorem natCast_toNat (a : Bignum) : (a.toNat : ZMod p) = residue a := rfl

/-- A canonical bignum in the class of an integer is its mathematical remainder (R11). -/
theorem toNat_eq_emod {a : Bignum} {v : Int} (ha : a.toNat < p) (h : residue a = (v : ZMod p)) :
    a.toNat = (v % p).toNat := by
  have hcast : ((a.toNat : Int) : ZMod p) = (v : ZMod p) := by rw [Int.cast_natCast]; exact h
  have hmod := (ZMod.intCast_eq_intCast_iff' _ _ _).1 hcast
  rw [← hmod, Int.emod_eq_of_lt (Int.natCast_nonneg _) (Int.ofNat_lt.2 ha), Int.toNat_natCast]

@[simp] theorem residue_zero : residue 0#256 = 0 := Nat.cast_zero

/-- The curve coefficient `a` is -3 (spec/00_scope.md R15). -/
theorem residue_curveA : residue curveA = -3 := by
  have hp : curveA.toNat + 3 = p := by decide
  have hsum : ((curveA.toNat + 3 : Nat) : ZMod p) = 0 := by rw [hp, ZMod.natCast_self]
  rw [Nat.cast_add, natCast_toNat] at hsum
  exact eq_neg_of_add_eq_zero_left hsum

/-- A canonical bignum in the class of 0 is 0. -/
theorem eq_zero_of_residue {a : Bignum} (ha : a.toNat < p) (h : residue a = 0) : a = 0#256 :=
  residue_inj ha p_pos (h.trans residue_zero.symm)

/-! ### The doubling formula (R201) -/

section
variable (q : Point)

theorem residue_dblM :
    residue (dblM q) = 3 * residue q.x ^ 2 + residue curveA * residue q.z ^ 4 := by
  simp [dblM]; ring

theorem residue_dblS : residue (dblS q) = 4 * residue q.x * residue q.y ^ 2 := by
  simp [dblS]; ring

theorem residue_dbl_x : residue (dbl q).x = residue (dblM q) ^ 2 - 2 * residue (dblS q) := by
  simp [dbl]; ring

theorem residue_dbl_y :
    residue (dbl q).y =
      residue (dblM q) * (residue (dblS q) - residue (dbl q).x) - 8 * residue q.y ^ 4 := by
  simp [dbl]; ring

theorem residue_dbl_z : residue (dbl q).z = 2 * residue q.y * residue q.z := by
  simp [dbl]; ring

theorem dbl_x_lt : (dbl q).x.toNat < p := subp_lt _ _
theorem dbl_y_lt : (dbl q).y.toNat < p := subp_lt _ _
theorem dbl_z_lt : (dbl q).z.toNat < p := mulp_lt _ _

end

/-- Settles O47: both forms are canonical, and equal in `ZMod p` because `a` is -3. -/
theorem doublingFactoredFormAgrees : Obligations.DoublingFactoredFormAgrees := by
  intro q
  refine residue_inj (addp_lt _ _) (mulp_lt _ _) ?_
  rw [residue_dblM, residue_curveA]
  simp
  ring

/-! ### The addition formula (R204) -/

section
variable (q r : Point)

theorem residue_addU : residue (addU q r) = residue q.x * residue r.z ^ 2 := by
  simp [addU]; ring

theorem residue_addS : residue (addS q r) = residue q.y * residue r.z ^ 3 := by
  simp [addS]; ring

theorem residue_addH : residue (addH q r) = residue (addU r q) - residue (addU q r) := residue_subp _ _

theorem residue_addR : residue (addR q r) = residue (addS r q) - residue (addS q r) := residue_subp _ _

theorem residue_addFormula_x :
    residue (addFormula q r).x =
      residue (addR q r) ^ 2 - residue (addH q r) ^ 3 - 2 * residue (addU q r) * residue (addH q r) ^ 2 := by
  simp [addFormula]; ring

theorem residue_addFormula_y :
    residue (addFormula q r).y =
      residue (addR q r) * (residue (addU q r) * residue (addH q r) ^ 2 - residue (addFormula q r).x) -
        residue (addS q r) * residue (addH q r) ^ 3 := by
  simp [addFormula]; ring

theorem residue_addFormula_z :
    residue (addFormula q r).z = residue q.z * residue r.z * residue (addH q r) := by
  simp [addFormula]

theorem addFormula_x_lt : (addFormula q r).x.toNat < p := subp_lt _ _
theorem addFormula_y_lt : (addFormula q r).y.toNat < p := subp_lt _ _
theorem addFormula_z_lt : (addFormula q r).z.toNat < p := mulp_lt _ _

end

section
variable {q r : Point}

/-- Finite operands are added by the formula (R203). -/
theorem paddValue_of_finite (hq : q.z ≠ 0#256) (hr : r.z ≠ 0#256) : paddValue q r = addFormula q r := by
  rw [paddValue, if_neg hq, if_neg hr]

/-- Swapping the operands exchanges `U1` with `U2` and `S1` with `S2`, so it negates `H` and `R`. -/
theorem addFormula_swap_x : (addFormula r q).x = (addFormula q r).x := by
  refine residue_inj (addFormula_x_lt r q) (addFormula_x_lt q r) ?_
  simp only [residue_addFormula_x, residue_addH, residue_addR]
  ring

theorem addFormula_swap_y : (addFormula r q).y = subp 0#256 (addFormula q r).y := by
  refine residue_inj (addFormula_y_lt r q) (subp_lt _ _) ?_
  rw [residue_subp, residue_zero, residue_addFormula_y, residue_addFormula_y, addFormula_swap_x]
  simp only [residue_addH, residue_addR]
  ring

theorem addFormula_swap_z : (addFormula r q).z = subp 0#256 (addFormula q r).z := by
  refine residue_inj (addFormula_z_lt r q) (subp_lt _ _) ?_
  rw [residue_subp, residue_zero, residue_addFormula_z, residue_addFormula_z]
  simp only [residue_addH]
  ring

/-- With `H = 0` the sum has `Z3 = 0`: doublings and opposite points are not detected (R205). -/
theorem addFormula_z_of_addH_zero (h : addH q r = 0#256) : (addFormula q r).z = 0#256 :=
  eq_zero_of_residue (addFormula_z_lt q r) (by simp [residue_addFormula_z, h])

theorem addFormula_x_of_addH_zero (h : addH q r = 0#256) : (addFormula q r).x = sqrp (addR q r) := by
  refine residue_inj (addFormula_x_lt q r) (sqrp_lt _) ?_
  simp [residue_addFormula_x, h, pow_two]

theorem addFormula_y_of_addH_addR_zero (h : addH q r = 0#256) (hr : addR q r = 0#256) :
    (addFormula q r).y = 0#256 :=
  eq_zero_of_residue (addFormula_y_lt q r) (by simp [residue_addFormula_y, h, hr])

end

/-- Settles O45, coordinate by coordinate: finite operands are added by the formula. -/
theorem swappedAdditionNegatesYAndZ : Obligations.SwappedAdditionNegatesYAndZ := by
  intro q r hq hr
  rw [paddValue_of_finite hq hr, paddValue_of_finite hr hq]
  exact ⟨addFormula_swap_x, addFormula_swap_y, addFormula_swap_z⟩

/-- Settles O46: with `H = 0` only `R^2` is left of `X3`, and with `R = 0` nothing of `Y3`. -/
theorem equalPointsAddToInfinity : Obligations.EqualPointsAddToInfinity := by
  intro q r hq hr hH
  have hx := addFormula_x_of_addH_zero hH
  have hz := addFormula_z_of_addH_zero hH
  rw [paddValue_of_finite hq hr]
  refine ⟨fun hR => ?_, fun _ => ⟨hx, hz⟩⟩
  have hx0 : (addFormula q r).x = 0#256 := by rw [hx, hR]; rfl
  exact congr (congr (congrArg Point.mk hx0) (addFormula_y_of_addH_addR_zero hH hR)) hz

end Sys2Proof.Machine
end

section
/-! SUPPORT. The completions of the point unit's commands (spec/41_point.md R200 to R211): each is settled
by its effect and the integer values of the coordinates it writes (O40 to O44). -/

namespace Sys2Proof.Machine

/-! ### One lemma per kind of destination -/

theorem writesPoint_finish (s : State) (d : Field) (q : Point) :
    WritesPoint s ((s.writeJ d q).finish .ok) d q.x.toNat q.y.toNat q.z.toNat := by
  have hself : ((s.writeJ d q).finish .ok).j[pointIndex d] = .of q := s.writeJ_self d q
  exact ⟨by rw [hself]; rfl, by rw [hself]; rfl, by rw [hself]; rfl, by rw [hself]; rfl,
    fun r hr => s.writeJ_other q hr, rfl, ⟨rfl, rfl, rfl⟩, ⟨rfl, rfl, rfl⟩, rfl, rfl,
    ⟨rfl, rfl, rfl, rfl, rfl, rfl, rfl, rfl, rfl⟩, completes_finish_ok rfl⟩

theorem writesPair_finish (s : State) (d : Field) (xy : Bignum × Bignum) :
    WritesPair s ((s.writePair d xy).finish .ok) d xy.1.toNat xy.2.toNat := by
  have hframe : OnlyBigChanges s ((s.writePair d xy).finish .ok) :=
    ⟨rfl, ⟨rfl, rfl, rfl⟩, ⟨rfl, rfl, rfl⟩, rfl, rfl, ⟨rfl, rfl, rfl, rfl, rfl, rfl, rfl, rfl, rfl⟩,
      completes_finish_ok rfl⟩
  have hfst : ((s.writePair d xy).finish .ok).b[d] = .of xy.1 := s.writePair_fst d xy
  have hsnd : ((s.writePair d xy).finish .ok).b[pairNext d] = .of xy.2 := s.writePair_snd d xy
  exact ⟨by rw [hfst]; rfl, by rw [hfst]; rfl, by rw [hsnd]; rfl, by rw [hsnd]; rfl,
    fun r hd hnext => s.writePair_other xy hd hnext, hframe⟩

/-- A command whose effect is one point write, with the integers of the coordinates given. -/
theorem exec_writesPoint {i : Instr} {s : State} {d : Field} {q : Point} {x y z : Nat}
    (hw : operandsWritten i s = true) (he : effect i s = .ok (s.writeJ d q))
    (hx : q.x.toNat = x) (hy : q.y.toNat = y) (hz : q.z.toNat = z) :
    ∃ t, exec i s = .next t ∧ WritesPoint s t d x y z := by
  subst hx hy hz
  exact ⟨_, exec_of_effect hw he, writesPoint_finish s d q⟩

/-- A command whose effect is a write of a register pair. -/
theorem exec_writesPair {i : Instr} {s : State} {d : Field} {xy : Bignum × Bignum}
    (hw : operandsWritten i s = true) (he : effect i s = .ok (s.writePair d xy)) :
    ∃ t, exec i s = .next t ∧ WritesPair s t d xy.1.toNat xy.2.toNat :=
  ⟨_, exec_of_effect hw he, writesPair_finish s d xy⟩

/-- A command that fails changes only the indicators (spec/60_exceptions.md R402). -/
theorem exec_of_effect_error {i : Instr} {s : State} {c : ResultCode} (hw : operandsWritten i s = true)
    (he : effect i s = .error c) : ∃ t, exec i s = .next t ∧ OnlyIndicatorsChange s t c.bits :=
  ⟨_, by rw [exec_of_written hw, he]; rfl, onlyIndicatorsChange_finish s c⟩

/-! ### Doubling and addition -/

/-- The Z coordinate is tested against 0 itself, not mod p (R202). -/
theorem toNat_eq_zero {a : Bignum} : a.toNat = 0 ↔ a = 0#256 := BitVec.toNat_inj (y := 0#256)

theorem pdblValue_of_infinity {q : Point} (h : q.z = 0#256) : pdblValue q = q := if_pos h

theorem pdblValue_of_finite {q : Point} (h : q.z ≠ 0#256) : pdblValue q = dbl q := if_neg h

/-- Settles O40: the residues of the doubling formula are the classes of the integers of R201. -/
theorem pdblDoublesOrCopiesInfinity : Obligations.PdblDoublesOrCopiesInfinity := by
  intro d a s q x y z m u x3 y3 z3
  have hz0 : z = 0 ↔ q.z = 0#256 := Int.natCast_eq_zero.trans toNat_eq_zero
  refine ⟨hasWord_fields (.pdbl d a), fun hw hz => ?_, fun hw hz => ?_⟩
  · have hinf := hz0.1 hz
    have he : effect (.pdbl d a) s = .ok (s.writeJ d q) := by rw [effect, pdblValue_of_infinity hinf]
    exact exec_writesPoint hw he rfl rfl (toNat_eq_zero.2 hinf)
  · have he : effect (.pdbl d a) s = .ok (s.writeJ d (dbl q)) := by
      rw [effect, pdblValue_of_finite (mt hz0.2 hz)]
    have hm : residue (dblM q) = (m : ZMod p) := by simp [residue_dblM, m, x, z, natCast_toNat]
    have hu : residue (dblS q) = (u : ZMod p) := by simp [residue_dblS, u, x, y, natCast_toNat]
    have hx3 : residue (dbl q).x = (x3 : ZMod p) := by simp [residue_dbl_x, hm, hu, x3]
    refine exec_writesPoint hw he (toNat_eq_emod (dbl_x_lt q) ?_) (toNat_eq_emod (dbl_y_lt q) ?_)
      (toNat_eq_emod (dbl_z_lt q) ?_)
    · simp [residue_dbl_x, hm, hu]
    · rw [residue_dbl_y, hm, hu, hx3]
      simp [y, natCast_toNat]
    · simp [residue_dbl_z, y, z, natCast_toNat]

section
variable {q r : Point}

theorem paddValue_of_left_infinity (h : q.z = 0#256) : paddValue q r = r := if_pos h

theorem paddValue_of_right_infinity (hq : q.z ≠ 0#256) (hr : r.z = 0#256) : paddValue q r = q := by
  rw [paddValue, if_neg hq, if_pos hr]

end

/-- Settles O41: the residues of the addition formula are the classes of the integers of R204. -/
theorem paddAddsOrCopies : Obligations.PaddAddsOrCopies := by
  intro d a b s q r x1 y1 z1 x2 y2 z2 u1 s1 h e x3 y3 z3
  have hz1 : z1 = 0 ↔ q.z = 0#256 := Int.natCast_eq_zero.trans toNat_eq_zero
  have hz2 : z2 = 0 ↔ r.z = 0#256 := Int.natCast_eq_zero.trans toNat_eq_zero
  have hw (ha : s.writtenJ a = true) (hb : s.writtenJ b = true) :
      operandsWritten (.padd d a b) s = true := Bool.and_eq_true_iff.2 ⟨ha, hb⟩
  refine ⟨hasWord_fields (.padd d a b), fun ha hb hl => ?_, fun ha hb hl hr => ?_, fun ha hb hl hr => ?_⟩
  · have he : effect (.padd d a b) s = .ok (s.writeJ d r) := by
      rw [effect, paddValue_of_left_infinity (hz1.1 hl)]
    exact exec_writesPoint (hw ha hb) he rfl rfl rfl
  · have he : effect (.padd d a b) s = .ok (s.writeJ d q) := by
      rw [effect, paddValue_of_right_infinity (mt hz1.2 hl) (hz2.1 hr)]
    exact exec_writesPoint (hw ha hb) he rfl rfl rfl
  · have he : effect (.padd d a b) s = .ok (s.writeJ d (addFormula q r)) := by
      rw [effect, paddValue_of_finite (mt hz1.2 hl) (mt hz2.2 hr)]
    have hu1 : residue (addU q r) = (u1 : ZMod p) := by simp [residue_addU, u1, x1, z2, natCast_toNat]
    have hs1 : residue (addS q r) = (s1 : ZMod p) := by simp [residue_addS, s1, y1, z2, natCast_toNat]
    have hh : residue (addH q r) = (h : ZMod p) := by
      rw [residue_addH, residue_addU r q, hu1]
      simp [h, x2, z1, natCast_toNat]
    have hR : residue (addR q r) = (e : ZMod p) := by
      rw [residue_addR, residue_addS r q, hs1]
      simp [e, y2, z1, natCast_toNat]
    have hx3 : residue (addFormula q r).x = (x3 : ZMod p) := by
      simp [residue_addFormula_x, hu1, hh, hR, x3]
    refine exec_writesPoint (hw ha hb) he (toNat_eq_emod (addFormula_x_lt q r) ?_)
      (toNat_eq_emod (addFormula_y_lt q r) ?_) (toNat_eq_emod (addFormula_z_lt q r) ?_)
    · simp [residue_addFormula_x, hu1, hh, hR]
    · rw [residue_addFormula_y, hu1, hs1, hh, hR, hx3]
      simp
    · rw [residue_addFormula_z, hh]
      simp [z1, z2, natCast_toNat]

/-! ### Negation and the affine lift -/

/-- Settles O42: only Y is computed, and `toNat_eq_emod` gives its integer. -/
theorem pnegNegatesY : Obligations.PnegNegatesY := by
  intro d a s
  refine ⟨hasWord_fields (.pneg d a), fun hw => ?_⟩
  have hy : (pnegValue (s.readJ a)).y.toNat = ((0 - ((s.readJ a).y.toNat : Int)) % p).toNat :=
    toNat_eq_emod (subp_lt _ _) (by simp [pnegValue, natCast_toNat])
  exact exec_writesPoint (i := .pneg d a) hw rfl rfl hy rfl

/-- Settles O43: the coordinates are the operands and the constant 1 themselves. -/
theorem tojcbLifts : Obligations.TojcbLifts := by
  intro d a b s
  refine ⟨hasWord_fields (.tojcb d a b), fun ha hb => ?_⟩
  exact exec_writesPoint (i := .tojcb d a b) (Bool.and_eq_true_iff.2 ⟨ha, hb⟩) rfl rfl rfl rfl

/-! ### The affine projection -/

section
variable {q : Point}

theorem toaffValue_of_infinity (h : q.z = 0#256) : toaffValue q = .error .inf := if_pos h

theorem toaffValue_of_zeroP (hne : q.z ≠ 0#256) (h : q.z.toNat % p = 0) : toaffValue q = .error .inv := by
  have hz : isZeroP q.z = true := beq_iff_eq.2 h
  simp [toaffValue, invp, hne, hz]

/-- A power of the inverse undoes that power of `Z` (R210). -/
theorem mul_pow_mod_of_inverseP (h : q.z.toNat % p ≠ 0) {a x : Bignum} {k : Nat}
    (hx : residue x = residue a * residue (inverseP q.z) ^ k) :
    x.toNat * q.z.toNat ^ k % p = a.toNat % p := by
  refine (ZMod.natCast_eq_natCast_iff' _ _ _).1 ?_
  calc ((x.toNat * q.z.toNat ^ k : Nat) : ZMod p)
      = residue x * residue q.z ^ k := by rw [Nat.cast_mul, Nat.cast_pow]; rfl
    _ = residue a * (residue (inverseP q.z) * residue q.z) ^ k := by rw [hx, mul_pow, mul_assoc]
    _ = residue a := by rw [residue_inverseP (isZeroP_eq_false h), one_pow, mul_one]

theorem toaffValue_of_finite (h : q.z.toNat % p ≠ 0) :
    ∃ xy, toaffValue q = .ok xy ∧ xy.1.toNat < p ∧ xy.2.toNat < p ∧
      xy.1.toNat * q.z.toNat ^ 2 % p = q.x.toNat % p ∧ xy.2.toNat * q.z.toNat ^ 3 % p = q.y.toNat % p := by
  have hne : q.z ≠ 0#256 := fun h0 => h (by rw [h0]; rfl)
  have hvalue : toaffValue q = .ok (mulp q.x (sqrp (inverseP q.z)),
      mulp q.y (mulp (sqrp (inverseP q.z)) (inverseP q.z))) := by
    simp [toaffValue, invp, hne, isZeroP_eq_false h]
  refine ⟨_, hvalue, mulp_lt _ _, mulp_lt _ _, mul_pow_mod_of_inverseP h ?_, mul_pow_mod_of_inverseP h ?_⟩
  · simp [pow_two]
  · simp [pow_succ]

end

/-- Settles O44: `toaffValue` has one lemma per case. -/
theorem toaffProjects : Obligations.ToaffProjects := by
  intro d a s q
  refine ⟨hasWord_fields (.toaff d a), fun hw hz => ?_, fun hw hz hzp => ?_, fun hw hzp => ?_⟩
  · exact exec_of_effect_error (i := .toaff d a) hw
      (map_eq_error.2 (toaffValue_of_infinity (toNat_eq_zero.1 hz)))
  · exact exec_of_effect_error (i := .toaff d a) hw
      (map_eq_error.2 (toaffValue_of_zeroP (mt toNat_eq_zero.2 hz) hzp))
  · obtain ⟨xy, hvalue, hspec⟩ := toaffValue_of_finite hzp
    obtain ⟨t, hexec, hwrites⟩ := exec_writesPair (i := .toaff d a) hw (map_eq_ok.2 ⟨xy, hvalue, rfl⟩)
    exact ⟨t, _, _, hexec, hwrites, hspec⟩

end Sys2Proof.Machine
end

section
/-! SUPPORT. The properties of the encoding of a scalar (spec/42_scalar.md R250, R251) and what SENC makes
of it (R255): the scan turn by turn, then its digits, their sum and their highest position (O48, O49). -/

namespace Sys2Proof.Machine

/-! ### One turn of the scan (R250) -/

/-- What a turn of the scan at `pos` with `carry` can do: stop, skip a bit that equals the carry, or give a
digit, which takes the window and leaves 32 to the next carry if there is one. -/
inductive ScanTurn (k : Bignum) (fuel pos : Nat) (carry : Bool) : List Digit → Prop
  | stop (hpos : 256 ≤ pos) (hcarry : carry = false) : ScanTurn k fuel pos carry []
  | skip (hbit : k.getLsbD pos = carry) : ScanTurn k fuel pos carry (scan k fuel (pos + 1) carry)
  | digit (code : Int) (next : Bool) (hbit : k.getLsbD pos ≠ carry)
      (hcode : code + 32 * next.toNat = window k pos carry)
      (hnext : next = true → 16 < window k pos carry) :
      ScanTurn k fuel pos carry (⟨code, pos⟩ :: scan k fuel (pos + 5) next)

theorem scan_turn (k : Bignum) (fuel pos : Nat) (carry : Bool) :
    ScanTurn k fuel pos carry (scan k (fuel + 1) pos carry) := by
  rw [scan]
  split
  case isFalse hdone =>
    obtain ⟨hpos, hcarry⟩ := not_or.1 hdone
    exact .stop (Nat.le_of_not_lt hpos) (Bool.not_eq_true _ ▸ hcarry)
  case isTrue =>
    split
    case isTrue hbit => exact .skip hbit
    case isFalse hbit =>
      split
      case isTrue hbig => exact .digit _ true hbit (by simp) fun _ => hbig
      case isFalse => exact .digit _ false hbit (by simp) nofun

/-- The scalar above `pos` is its bit there and twice the scalar above the next position. -/
theorem toNat_div_pow_succ (k : Bignum) (pos : Nat) :
    k.toNat / 2 ^ pos = 2 * (k.toNat / 2 ^ (pos + 1)) + (k.getLsbD pos).toNat := by
  have hbit : (k.getLsbD pos).toNat = k.toNat / 2 ^ pos % 2 := by
    rw [BitVec.getLsbD, Nat.testBit_eq_decide_div_mod_eq]
    rcases Nat.mod_two_eq_zero_or_one (k.toNat / 2 ^ pos) with h | h <;> simp [h]
  rw [hbit, pow_succ, ← Nat.div_div_eq_div_mul]
  exact (Nat.div_add_mod _ 2).symm

/-- The scalar above `pos` and a carry are the window and 32 times the scalar above it. -/
theorem toNat_div_pow_window (k : Bignum) (pos : Nat) (carry : Bool) :
    k.toNat / 2 ^ pos + carry.toNat = 32 * (k.toNat / 2 ^ (pos + 5)) + window k pos carry := by
  rw [window, pow_add, ← Nat.div_div_eq_div_mul, ← Nat.add_assoc]
  exact congrArg (· + carry.toNat) (Nat.div_add_mod _ 32).symm

/-- Bits at 256 and above read 0. -/
theorem toNat_div_pow_of_high (k : Bignum) {pos : Nat} (h : 256 ≤ pos) : k.toNat / 2 ^ pos = 0 :=
  Nat.div_eq_of_lt (k.isLt.trans_le (Nat.pow_le_pow_right (by decide) h))

/-! ### The digits (R251) -/

/-- The integer a list of digits stands for. -/
def digitSum (e : List Digit) : Int := (e.map fun d => d.code * 2 ^ d.shift).sum

theorem digitSum_nil : digitSum [] = 0 := rfl

theorem digitSum_cons (d : Digit) (e : List Digit) :
    digitSum (d :: e) = d.code * 2 ^ d.shift + digitSum e := by
  rw [digitSum, List.map_cons, List.sum_cons]; rfl

/-- With a turn for every position up to 256, the scan's digits sum to what is left of the scalar and the
carry. -/
theorem digitSum_scan (k : Bignum) (fuel pos : Nat) (carry : Bool) (hfuel : 257 ≤ fuel + pos)
    (hc : carry = true → pos ≤ 256) :
    digitSum (scan k fuel pos carry) = ((k.toNat / 2 ^ pos + carry.toNat : Nat) : Int) * 2 ^ pos := by
  induction fuel generalizing pos carry with
  | zero =>
    have hcarry : carry = false := Bool.eq_false_iff.2 fun h => by have := hc h; omega
    simp [scan, digitSum_nil, hcarry, toNat_div_pow_of_high k (show 256 ≤ pos by omega)]
  | succ fuel ih =>
    have hturn := scan_turn k fuel pos carry
    generalize scan k (fuel + 1) pos carry = e at hturn ⊢
    cases hturn with
    | stop hpos hcarry => simp [digitSum_nil, hcarry, toNat_div_pow_of_high k hpos]
    | skip hbit =>
      have hpos (h : carry = true) : pos + 1 ≤ 256 := by
        by_contra hge
        rw [BitVec.getLsbD_of_ge _ _ (by omega), h] at hbit
        cases hbit
      rw [ih (pos + 1) carry (by omega) hpos, toNat_div_pow_succ k pos, hbit]
      push_cast
      ring
    | digit code next hbit hcode hnext =>
      have hpos (h : next = true) : pos + 5 ≤ 256 := by
        by_contra hge
        have := window_le_of_high k carry (show 252 ≤ pos by omega)
        have := hnext h
        omega
      rw [toNat_div_pow_window, digitSum_cons, ih (pos + 5) next (by omega) hpos]
      push_cast
      rw [← hcode]
      ring

theorem digitSum_encodeScalar (k : Bignum) : digitSum (encodeScalar k) = k.toNat := by
  simpa [encodeScalar] using digitSum_scan k 257 0 false (by decide) nofun

/-- Past the scalar's bits only a pending carry is left to flush, as a digit +1. -/
theorem scan_code_of_high (k : Bignum) (fuel pos : Nat) (carry : Bool) :
    ∀ d ∈ scan k fuel pos carry, 256 ≤ d.shift → d.code = 1 := by
  induction fuel generalizing pos carry with
  | zero => exact fun d hd => absurd hd List.not_mem_nil
  | succ fuel ih =>
    have hturn := scan_turn k fuel pos carry
    generalize scan k (fuel + 1) pos carry = e at hturn ⊢
    cases hturn with
    | stop => exact fun d hd => absurd hd List.not_mem_nil
    | skip => exact ih _ _
    | digit code next hbit hcode hnext =>
      refine List.forall_mem_cons.2 ⟨fun hpos => ?_, ih _ _⟩
      have hodd := window_odd hbit
      have hcarry := carry.toNat_le
      have hwindow : window k pos carry = carry.toNat := by
        rw [window, toNat_div_pow_of_high k hpos, Nat.zero_mod, Nat.zero_add]
      have hnone : next = false := Bool.eq_false_iff.2 fun h => by have := hnext h; omega
      subst hnone
      simp only [Bool.toNat_false] at hcode
      dsimp only
      omega

theorem encodeScalar_code_of_top {k : Bignum} {d : Digit} (hd : d ∈ encodeScalar k) (h : d.shift = 256) :
    d.code = 1 :=
  scan_code_of_high k 257 0 false d hd h.ge

theorem scan_zero (fuel pos : Nat) : scan 0#256 fuel pos false = [] := by
  induction fuel generalizing pos with
  | zero => rfl
  | succ fuel ih => simp [scan, ih]

theorem encodeScalar_zero : encodeScalar 0#256 = [] := scan_zero 257 0

theorem DigitsFrom.pairwise {lo : Nat} {e : List Digit} (h : DigitsFrom lo e) :
    e.Pairwise fun d d' => d.shift + 5 ≤ d'.shift := by
  induction h with
  | nil => exact .nil
  | cons _ _ _ _ _ rest ih => exact .cons (fun _ hd => (rest.digit hd).1) ih

theorem encodeScalar_pairwise (k : Bignum) :
    (encodeScalar k).Pairwise fun d d' => d.shift + 5 ≤ d'.shift :=
  (encodeScalar_digitsFrom k).pairwise

/-- Settles O48: `DigitsFrom` holds the ranges and the spacing, `digitSum_scan` the sum. -/
theorem encodingRepresentsScalar : Obligations.EncodingRepresentsScalar := by
  intro k
  have hdigits := encodeScalar_digitsFrom k
  refine ⟨fun d hd => ?_, digitSum_encodeScalar k, hdigits.pairwise, hdigits.length_le_52, ?_⟩
  · obtain ⟨-, hshift, hodd, hlower, hupper⟩ := hdigits.digit hd
    exact ⟨hodd, hlower, hupper, hshift, encodeScalar_code_of_top hd⟩
  · rintro rfl
    exact encodeScalar_zero

/-! ### The highest position (R256, R265) -/

theorem isTopPosition_unique {e : List Digit} {m m' : Nat} (h : IsTopPosition e m) (h' : IsTopPosition e m') :
    m = m' := by
  have hle {m m' : Nat} (h : IsTopPosition e m) (h' : IsTopPosition e m') : m ≤ m' := by
    obtain ⟨-, rfl | ⟨d, hd, rfl⟩⟩ := h
    · exact Nat.zero_le _
    · exact h'.1 d hd
  exact Nat.le_antisymm (hle h h') (hle h' h)

theorem topShift_cons (d : Digit) (e : List Digit) : topShift (d :: e) = max d.shift (topShift e) := by
  have hmap (e : List Digit) : topShift e = (e.map (·.shift)).foldl max 0 := List.foldl_map.symm
  rw [hmap, hmap, List.map_cons, List.foldl_cons, max_comm, List.foldl_assoc]

theorem isTopPosition_topShift (e : List Digit) : IsTopPosition e (topShift e) := by
  induction e with
  | nil => exact ⟨nofun, .inl rfl⟩
  | cons d e ih =>
    obtain ⟨hall, hex⟩ := ih
    rw [topShift_cons]
    have hall' : ∀ d' ∈ e, d'.shift ≤ max d.shift (topShift e) :=
      fun d' hd' => (hall d' hd').trans (le_max_right _ _)
    refine ⟨List.forall_mem_cons.2 ⟨le_max_left _ _, hall'⟩, ?_⟩
    obtain hmax | hmax := max_choice d.shift (topShift e) <;> rw [hmax]
    · exact .inr ⟨d, List.mem_cons_self, rfl⟩
    · exact hex.imp_right fun ⟨d', hd', hshift⟩ => ⟨d', List.mem_cons_of_mem d hd', hshift⟩

/-- The last digit has the highest position (R256). -/
theorem isTopPosition_startingBit {e : List Digit} (h : e.Pairwise fun d d' => d.shift + 5 ≤ d'.shift) :
    IsTopPosition e (startingBit e) := by
  obtain rfl | ⟨init, last, rfl⟩ := List.eq_nil_or_concat' e
  · exact ⟨nofun, .inl rfl⟩
  · have hlast : startingBit (init ++ [last]) = last.shift := by simp [startingBit]
    obtain ⟨-, -, hinit⟩ := List.pairwise_append.1 h
    rw [hlast]
    refine ⟨fun d hd => ?_, .inr ⟨last, by simp, rfl⟩⟩
    obtain hd | hd := List.mem_append.1 hd
    · exact (Nat.le_add_right _ 5).trans (hinit d hd last (List.mem_singleton_self _))
    · rw [List.mem_singleton.1 hd]

theorem topShift_eq_startingBit {e : List Digit} (h : DigitsFrom 0 e) : topShift e = startingBit e :=
  isTopPosition_unique (isTopPosition_topShift e) (isTopPosition_startingBit h.pairwise)

theorem startingBit_of_getLast? {e : List Digit} {d : Digit} (h : e.getLast? = some d) :
    startingBit e = d.shift := by
  rw [startingBit, h]; rfl

theorem startingBit_le {e : List Digit} (h : DigitsFrom 0 e) : startingBit e ≤ 256 := by
  obtain ⟨-, h0 | ⟨d, hd, hshift⟩⟩ := isTopPosition_startingBit h.pairwise
  · omega
  · exact hshift ▸ (h.digit hd).2.1

/-! ### SENC (R255) -/

theorem onlyEncChanges_finish (s : State) (cnt top : Nat) (g : Nat → Word) :
    OnlyEncChanges s ((s.writeEnc cnt top g).finish .ok) :=
  ⟨rfl, rfl, ⟨rfl, rfl, rfl⟩, rfl, rfl, ⟨rfl, rfl, rfl, rfl, rfl, rfl, rfl, rfl, rfl⟩,
    completes_finish_ok rfl⟩

/-- Settles O49: the registers hold the encoding's count, its last position and one word per digit. -/
theorem sencExposesEncoding : Obligations.SencExposesEncoding := by
  intro a s e
  refine ⟨hasWord_fields (.senc a), fun hw => ?_⟩
  have hdigits : DigitsFrom 0 e := encodeScalar_digitsFrom _
  have hexec : exec (.senc a) s = .next ((s.writeEnc e.length (startingBit e) (encEntry e)).finish .ok) :=
    exec_of_effect hw rfl
  refine ⟨_, hexec, onlyEncChanges_finish s _ _ _, ?_⟩
  have henc (i : Fin 64) : ((s.writeEnc e.length (startingBit e) (encEntry e)).finish .ok).enc[i] =
      encEntry e i :=
    writeEnc_enc_get s e.length (startingBit e) (encEntry e) i
  have htop : (BitVec.ofNat 9 (startingBit e)).toNat = startingBit e := by
    have := startingBit_le hdigits
    rw [BitVec.toNat_ofNat]
    omega
  simp only [henc, State.finish_enccnt, State.finish_enctop, State.writeEnc_enccnt,
    State.writeEnc_enctop, htop]
  refine ⟨?_, (topShift_eq_startingBit hdigits).symm, fun d hd => startingBit_of_getLast? hd, ?_,
    fun i d hd => ?_, fun i hi => encEntry_of_length_le hi⟩
  · have := hdigits.length_le_52
    rw [BitVec.toNat_ofNat]
    omega
  · intro hnil
    rw [hnil]; rfl
  · obtain ⟨hi, rfl⟩ := List.getElem?_eq_some_iff.1 hd
    obtain ⟨-, hshift, hodd, hlower, hupper⟩ := hdigits.digit (List.getElem_mem hi)
    obtain ⟨-, -, -, -, hmid, hhigh⟩ := isDigitWord_digitWord hshift hodd hlower hupper
    rw [encEntry_of_lt hi]
    exact ⟨encCode_digitWord hlower hupper, encShift_digitWord hshift, hmid, hhigh⟩

end Sys2Proof.Machine
end

section
/-! SUPPORT. The table of odd multiples of a point (spec/42_scalar.md R252, R253): its index arrangement, its
entries, and what its entries keep (O50). -/

namespace Sys2Proof.Machine

/-! ### The index of a digit (R252) -/

theorem tableIndex_odd (k : Nat) : tableIndex (2 * k + 1) = k := by
  have hpos : (0 : Int) < 2 * k + 1 := by omega
  rw [tableIndex, if_pos hpos]
  omega

theorem tableIndex_neg_odd (k : Nat) : tableIndex (-(2 * k + 1)) = 8 + k := by
  have hneg : ¬ (0 : Int) < -(2 * k + 1) := by omega
  rw [tableIndex, if_neg hneg]
  omega

/-- An odd code in [-15, 15] is one of the eight odd numbers of the table or its negation. -/
theorem odd_code_cases {c : Int} (hodd : c % 2 = 1) (hlower : -15 ≤ c) (hupper : c ≤ 15) :
    ∃ k : Nat, k < 8 ∧ (c = 2 * k + 1 ∨ c = -(2 * k + 1)) := by
  by_cases hc : 0 < c
  · exact ⟨((c - 1) / 2).toNat, by omega, .inl (by omega)⟩
  · exact ⟨((-c - 1) / 2).toNat, by omega, .inr (by omega)⟩

/-! ### The entries (R253) -/

theorem length_oddMultiples (m : Nat) (t d : Point) : (oddMultiples m t d).length = m + 1 := by
  induction m generalizing t with
  | zero => rfl
  | succ m ih => rw [oddMultiples, List.length_cons, ih]

theorem oddMultiples_zero (m : Nat) (t d : Point) : (oddMultiples m t d)[0]? = some t := by
  cases m <;> rfl

/-- Each further entry is the sum of the one before it and the double, in this order. -/
theorem oddMultiples_succ {m i : Nat} (h : i < m) (t d : Point) :
    (oddMultiples m t d)[i + 1]? = some (paddValue ((oddMultiples m t d).getD i infinity) d) := by
  induction m generalizing t i with
  | zero => omega
  | succ m ih =>
    rw [oddMultiples, List.getElem?_cons_succ]
    cases i with
    | zero => rw [oddMultiples_zero, List.getD_cons_zero]
    | succ i => rw [ih (by omega), List.getD_cons_succ]

/-- The odd half of the table. -/
def oddHalf (x y : Bignum) : List Point := oddMultiples 7 (tojcbValue x y) (pdblValue (tojcbValue x y))

theorem pretable_eq (x y : Bignum) : pretable x y = oddHalf x y ++ (oddHalf x y).map pnegValue := rfl

theorem length_oddHalf (x y : Bignum) : (oddHalf x y).length = 8 := length_oddMultiples 7 _ _

theorem length_pretable (x y : Bignum) : (pretable x y).length = 16 := by
  rw [pretable_eq, List.length_append, List.length_map, length_oddHalf]

theorem pretable_odd (x y : Bignum) {k : Nat} (h : k < 8) : (pretable x y)[k]? = (oddHalf x y)[k]? :=
  List.getElem?_append_left (length_oddHalf x y ▸ h)

theorem getD_pretable_odd (x y : Bignum) {k : Nat} (h : k < 8) :
    (pretable x y).getD k infinity = (oddHalf x y).getD k infinity := by
  rw [List.getD_eq_getElem?_getD, List.getD_eq_getElem?_getD, pretable_odd x y h]

theorem pretable_zero (x y : Bignum) : (pretable x y)[0]? = some ⟨x, y, 1#256⟩ :=
  (pretable_odd x y (by decide)).trans (oddMultiples_zero _ _ _)

theorem pretable_succ (x y : Bignum) {k : Nat} (h : k < 7) :
    (pretable x y)[k + 1]? = some (paddValue ((pretable x y).getD k infinity)
      (pdblValue ⟨x, y, 1#256⟩)) := by
  rw [pretable_odd x y (by omega), getD_pretable_odd x y (by omega)]
  exact oddMultiples_succ h _ _

theorem pretable_neg (x y : Bignum) {k : Nat} (h : k < 8) :
    (pretable x y)[8 + k]? = some (pnegValue ((pretable x y).getD k infinity)) := by
  have hk : k < (oddHalf x y).length := length_oddHalf x y ▸ h
  rw [getD_pretable_odd x y h, pretable_eq, List.getElem?_append_right (by rw [length_oddHalf]; omega),
    length_oddHalf, Nat.add_sub_cancel_left, List.getElem?_map, List.getElem?_eq_getElem hk,
    List.getD_eq_getElem _ _ hk, Option.map_some]

/-- Settles O50: one lemma per half of the index and per kind of entry. -/
theorem pretableArrangement : Obligations.PretableArrangement := by
  refine ⟨fun k _ => ⟨tableIndex_odd k, tableIndex_neg_odd k⟩, fun x y => ?_⟩
  refine ⟨length_pretable x y, pretable_zero x y, fun k hlow hhigh => ?_, fun k hk => pretable_neg x y hk⟩
  obtain ⟨k, rfl⟩ : ∃ j, k = j + 1 := ⟨k - 1, by omega⟩
  exact pretable_succ x y (by omega)

theorem getD_of_getElem? {t : List Point} {k : Nat} {q : Point} (h : t[k]? = some q) :
    t.getD k infinity = q := by
  rw [List.getD_eq_getElem?_getD, h, Option.getD_some]

/-- A property of the triple that the table is built from, of doublings, sums and negations holds of every
entry the schedule can take, also of infinity past the end. -/
theorem getD_pretable_induction {P : Point → Prop} {x y : Bignum} (hinf : P infinity)
    (hbase : P ⟨x, y, 1#256⟩)
    (hadd : ∀ k, k < 7 → P ((pretable x y).getD k infinity) →
      P (paddValue ((pretable x y).getD k infinity) (pdblValue ⟨x, y, 1#256⟩)))
    (hneg : ∀ q, P q → P (pnegValue q)) (i : Nat) : P ((pretable x y).getD i infinity) := by
  have hodd (k : Nat) (hk : k < 8) : P ((pretable x y).getD k infinity) := by
    induction k with
    | zero => rwa [getD_of_getElem? (pretable_zero x y)]
    | succ k ih =>
      rw [getD_of_getElem? (pretable_succ x y (by omega))]
      exact hadd k (by omega) (ih (by omega))
  by_cases hlow : i < 8
  · exact hodd i hlow
  by_cases hhigh : i < 16
  · obtain ⟨k, rfl⟩ : ∃ k, i = 8 + k := ⟨i - 8, by omega⟩
    rw [getD_of_getElem? (pretable_neg x y (by omega))]
    exact hneg _ (hodd k (by omega))
  · rwa [List.getD_eq_default _ _ (by rw [length_pretable]; omega)]

end Sys2Proof.Machine
end

section
/-! SUPPORT. The combination schedule (spec/42_scalar.md R265, R266) and the completions of DSM (R267, R268):
its accumulator by position, the range of its Z coordinate, and its two outcomes (O52, O53). -/

namespace Sys2Proof.Machine

/-! ### What is scheduled at a position (R265) -/

/-- At a position the schedule takes the digit of the encoding there, or nothing when there is none. -/
theorem digitAt_cases (e : List Digit) (i : Nat) :
    (∃ d ∈ e, d.shift = i ∧ digitAt e i = some d.code) ∨
      (∀ d ∈ e, d.shift ≠ i) ∧ digitAt e i = none := by
  unfold digitAt
  cases hfind : e.find? fun d => d.shift == i with
  | none =>
    exact .inr ⟨fun d hd hshift => List.find?_eq_none.1 hfind d hd (beq_iff_eq.2 hshift), rfl⟩
  | some d =>
    have hshift : (d.shift == i) = true := List.find?_some (p := fun d : Digit => d.shift == i) hfind
    exact .inl ⟨d, List.mem_of_find?_eq_some hfind, beq_iff_eq.1 hshift, rfl⟩

theorem addDigit_of_some {e : List Digit} {i : Nat} {c : Int} (h : digitAt e i = some c) (t : List Point)
    (q : Point) : addDigit e t i q = paddValue q (t.getD (tableIndex c) infinity) := by
  rw [addDigit, h]

theorem addDigit_of_none {e : List Digit} {i : Nat} (h : digitAt e i = none) (t : List Point) (q : Point) :
    addDigit e t i q = q := by
  rw [addDigit, h]

section
variable {e1 e2 : List Digit} {tg tp : List Point} {top : Nat} {before mid after : Nat → Point}

/-- The G entry of a position, if any, is what `addDigit` adds. -/
theorem FollowsSchedule.mid_eq (h : FollowsSchedule e1 e2 tg tp top before mid after) {i : Nat}
    (hi : i ≤ top) : mid i = addDigit e1 tg i (before i) := by
  obtain ⟨d, hd, rfl, hat⟩ | ⟨hnone, hat⟩ := digitAt_cases e1 i
  · rw [h.addG d hd, addDigit_of_some hat]
  · rw [h.keepG i hi hnone, addDigit_of_none hat]

/-- The P entry of a position, if any, is what `addDigit` adds. -/
theorem FollowsSchedule.after_eq (h : FollowsSchedule e1 e2 tg tp top before mid after) {i : Nat}
    (hi : i ≤ top) : after i = addDigit e2 tp i (mid i) := by
  obtain ⟨d, hd, rfl, hat⟩ | ⟨hnone, hat⟩ := digitAt_cases e2 i
  · rw [h.addP d hd, addDigit_of_some hat]
  · rw [h.keepP i hi hnone, addDigit_of_none hat]

/-- From every position the schedule ends where it leaves position 0. -/
theorem FollowsSchedule.combine_eq (h : FollowsSchedule e1 e2 tg tp top before mid after) {i : Nat}
    (hi : i ≤ top) : combine e1 e2 tg tp i (before i) = after 0 := by
  have hposition {i : Nat} (hi : i ≤ top) : addDigit e2 tp i (addDigit e1 tg i (before i)) = after i := by
    rw [← h.mid_eq hi, ← h.after_eq hi]
  unfold combine
  induction i with
  | zero => exact hposition hi
  | succ i ih => rw [combineWith, hposition hi, ← h.double i hi, ih (by omega)]

end

theorem dsmAccumulator_eq_after {k1 k2 px py : Bignum} {top : Nat} {before mid after : Nat → Point}
    (htop : IsTopPosition (encodeScalar k1 ++ encodeScalar k2) top)
    (h : FollowsSchedule (encodeScalar k1) (encodeScalar k2) (pretable gx gy) (pretable px py) top
      before mid after) : dsmAccumulator k1 k2 px py = after 0 := by
  have hshift := isTopPosition_unique (isTopPosition_topShift _) htop
  calc dsmAccumulator k1 k2 px py
      = combine (encodeScalar k1) (encodeScalar k2) (pretable gx gy) (pretable px py) top infinity := by
        rw [← hshift]; rfl
    _ = after 0 := by rw [← h.start, h.combine_eq le_rfl]

/-! ### The accumulator's Z is canonical (R267) -/

/-- The Z coordinate is below p. -/
def ZCanonical (q : Point) : Prop := q.z.toNat < p

theorem zCanonical_infinity : ZCanonical infinity := p_pos

theorem zCanonical_lift (x y : Bignum) : ZCanonical ⟨x, y, 1#256⟩ := show (1#256).toNat < p by decide

theorem zCanonical_pdblValue {q : Point} (h : ZCanonical q) : ZCanonical (pdblValue q) := by
  by_cases hz : q.z = 0#256
  · rwa [pdblValue_of_infinity hz]
  · rw [pdblValue_of_finite hz]
    exact dbl_z_lt q

theorem zCanonical_paddValue {q r : Point} (hq : ZCanonical q) (hr : ZCanonical r) :
    ZCanonical (paddValue q r) := by
  by_cases hqz : q.z = 0#256
  · rwa [paddValue_of_left_infinity hqz]
  by_cases hrz : r.z = 0#256
  · rwa [paddValue_of_right_infinity hqz hrz]
  · rw [paddValue_of_finite hqz hrz]
    exact addFormula_z_lt q r

theorem zCanonical_pretable (x y : Bignum) (i : Nat) : ZCanonical ((pretable x y).getD i infinity) :=
  getD_pretable_induction zCanonical_infinity (zCanonical_lift x y)
    (fun _ _ h => zCanonical_paddValue h (zCanonical_pdblValue (zCanonical_lift x y))) (fun _ h => h) i

theorem zCanonical_addDigit (x y : Bignum) (e : List Digit) (i : Nat) {q : Point} (h : ZCanonical q) :
    ZCanonical (addDigit e (pretable x y) i q) := by
  obtain ⟨d, -, -, hat⟩ | ⟨-, hat⟩ := digitAt_cases e i
  · rw [addDigit_of_some hat]
    exact zCanonical_paddValue h (zCanonical_pretable x y _)
  · rwa [addDigit_of_none hat]

/-- What doublings and the additions of every position keep, the schedule keeps. -/
theorem combineWith_keeps {α : Type} {P : α → Prop} {double : α → α} {addAt : Nat → α → α}
    (hdouble : ∀ q, P q → P (double q)) (hadd : ∀ i q, P q → P (addAt i q)) (i : Nat) {q : α}
    (h : P q) : P (combineWith double addAt i q) := by
  induction i generalizing q with
  | zero => exact hadd 0 q h
  | succ i ih => exact ih (hdouble _ (hadd _ _ h))

theorem zCanonical_dsmAccumulator (k1 k2 px py : Bignum) : ZCanonical (dsmAccumulator k1 k2 px py) :=
  combineWith_keeps (fun _ h => zCanonical_pdblValue h)
    (fun i _ h => zCanonical_addDigit px py _ i (zCanonical_addDigit gx gy _ i h)) _ zCanonical_infinity

/-! ### The completions of DSM (R265, R267) -/

/-- DSM's operands are the two scalars and both registers of the point's pair (R265). -/
theorem operandsWritten_dsm {a b c : Field} {s : State} (d : Field) (ha : s.writtenB a = true)
    (hb : s.writtenB b = true) (hc : s.writtenB c = true) (hn : s.writtenB (pairNext c) = true) :
    operandsWritten (.dsm d a b c) s = true := by
  rw [operandsWritten, ha, hb, hc, hn]; rfl

/-- Settles O52: `FollowsSchedule.combine_eq` is the accumulator, and its canonical Z leaves TOAFF no
E_INV. -/
theorem dsmWritesAffineAccumulator : Obligations.DsmWritesAffineAccumulator := by
  refine ⟨fun _ _ _ _ _ _ _ _ htop h => dsmAccumulator_eq_after htop h, ?_⟩
  intro d a b c s q
  refine ⟨hasWord_fields (.dsm d a b c), fun ha hb hc hn => ?_⟩
  have hw := operandsWritten_dsm d ha hb hc hn
  refine ⟨fun hz => ?_, fun hz => ?_⟩
  · exact exec_of_effect_error hw (map_eq_error.2 (toaffValue_of_infinity hz))
  · have hzp : q.z.toNat % p ≠ 0 := by
      rw [Nat.mod_eq_of_lt (zCanonical_dsmAccumulator _ _ _ _)]
      exact mt toNat_eq_zero.1 hz
    obtain ⟨xy, hvalue, hspec⟩ := toaffValue_of_finite hzp
    obtain ⟨t, hexec, hwrites⟩ := exec_writesPair hw (map_eq_ok.2 ⟨xy, hvalue, rfl⟩)
    exact ⟨t, _, _, hexec, hwrites, hspec⟩

/-! ### The examples of R265 and R268 -/

theorem encodeScalar_one : encodeScalar 1#256 = [⟨1, 0⟩] := by decide +kernel

/-- `1 G + 0 P` copies G's first table entry into the accumulator. -/
theorem dsmAccumulator_one_zero (px py : Bignum) :
    dsmAccumulator 1#256 0#256 px py = ⟨gx, gy, 1#256⟩ := by
  rw [dsmAccumulator, encodeScalar_one, encodeScalar_zero]
  exact (paddValue_of_left_infinity (q := infinity) rfl).trans (getD_of_getElem? (pretable_zero gx gy))

/-- `1 G + 1 G` adds G to itself at position 0. -/
theorem dsmAccumulator_one_one :
    dsmAccumulator 1#256 1#256 gx gy = paddValue ⟨gx, gy, 1#256⟩ ⟨gx, gy, 1#256⟩ := by
  have hentry : (pretable gx gy).getD 0 infinity = ⟨gx, gy, 1#256⟩ :=
    getD_of_getElem? (pretable_zero gx gy)
  have hvalue : dsmAccumulator 1#256 1#256 gx gy =
      paddValue (paddValue infinity ((pretable gx gy).getD 0 infinity))
        ((pretable gx gy).getD 0 infinity) := by
    rw [dsmAccumulator, encodeScalar_one]; rfl
  rw [hvalue, hentry, paddValue_of_left_infinity (q := infinity) rfl]

/-- A triple has `H = 0` with itself (R205). -/
theorem addH_self (q : Point) : addH q q = 0#256 :=
  eq_zero_of_residue (subp_lt _ _) (by rw [residue_addH, sub_self])

theorem paddValue_self_z (q : Point) : (paddValue q q).z = 0#256 := by
  by_cases hz : q.z = 0#256
  · rwa [paddValue_of_left_infinity hz]
  · rw [paddValue_of_finite hz hz, addFormula_z_of_addH_zero (addH_self q)]

/-- With `Z = 1` the equations of R210 leave the canonical coordinate itself. -/
theorem eq_of_mul_one_pow_mod {a b : Bignum} {k : Nat} (ha : a.toNat < p) (hb : b.toNat < p)
    (h : a.toNat * (1#256).toNat ^ k % p = b.toNat % p) : a = b := by
  have hone : (1#256).toNat = 1 := rfl
  rw [hone, Nat.one_pow, Nat.mul_one, Nat.mod_eq_of_lt ha, Nat.mod_eq_of_lt hb] at h
  exact BitVec.eq_of_toNat_eq h

/-- The affine form of a lifted canonical point is the point (R208, R210). -/
theorem toaffValue_lift {x y : Bignum} (hx : x.toNat < p) (hy : y.toNat < p) :
    toaffValue ⟨x, y, 1#256⟩ = .ok (x, y) := by
  have hz : (1#256).toNat % p ≠ 0 := by decide
  obtain ⟨xy, hvalue, hxlt, hylt, hxeq, hyeq⟩ := toaffValue_of_finite (q := ⟨x, y, 1#256⟩) hz
  have hfst : xy.1 = x := eq_of_mul_one_pow_mod hxlt hx hxeq
  have hsnd : xy.2 = y := eq_of_mul_one_pow_mod hylt hy hyeq
  rw [hvalue, ← hfst, ← hsnd]

/-- Settles O53: the accumulator is G itself, or the sum of G and G, whose Z is 0. -/
theorem dsmOfOneAndZeroIsGenerator : Obligations.DsmOfOneAndZeroIsGenerator := by
  intro d a b c s ha hb hc hn hk1
  have hw := operandsWritten_dsm d ha hb hc hn
  refine ⟨fun hk2 => ?_, fun hk2 hx hy => ?_⟩
  · have hvalue : dsmValue (s.readB a) (s.readB b) (s.readB c) (s.readB (pairNext c)) = .ok (gx, gy) := by
      rw [hk1, hk2, dsmValue, dsmAccumulator_one_zero]
      exact toaffValue_lift (by decide) (by decide)
    exact exec_writesPair hw (map_eq_ok.2 ⟨_, hvalue, rfl⟩)
  · have hvalue : dsmValue (s.readB a) (s.readB b) (s.readB c) (s.readB (pairNext c)) = .error .inf := by
      rw [hk1, hk2, hx, hy, dsmValue, dsmAccumulator_one_one]
      exact toaffValue_of_infinity (paddValue_self_z _)
    exact exec_of_effect_error hw (map_eq_error.2 hvalue)

end Sys2Proof.Machine
end

section
/-! SUPPORT. The value of the combination schedule (spec/42_scalar.md R266, R269): in a commutative group it
is the sum of the digits' multiples, and on points it is that sum as long as no addition meets equal points
(O51). -/

namespace Sys2Proof.Machine

/-! ### The schedule's digits (R265) -/

theorem digitAt_cons (d : Digit) (e : List Digit) (i : Nat) :
    digitAt (d :: e) i = if d.shift = i then some d.code else digitAt e i := by
  by_cases h : d.shift = i <;> simp [digitAt, h]

theorem digitAt_eq_none {e : List Digit} {i : Nat} (h : ∀ d ∈ e, d.shift ≠ i) : digitAt e i = none := by
  obtain ⟨d, hd, hshift, -⟩ | ⟨-, hat⟩ := digitAt_cases e i
  · exact absurd hshift (h d hd)
  · exact hat

/-- Each digit of an encoding is scheduled once: the positions' digits sum to the encoded integer. -/
theorem sum_digitAt {e : List Digit} (hpair : e.Pairwise fun d d' => d.shift + 5 ≤ d'.shift) {top : Nat}
    (htop : ∀ d ∈ e, d.shift ≤ top) :
    ∑ i ∈ Finset.range (top + 1), 2 ^ i * (digitAt e i).getD 0 = digitSum e := by
  induction e with
  | nil => simp [digitAt, digitSum_nil]
  | cons d e ih =>
    obtain ⟨hfirst, hrest⟩ := List.pairwise_cons.1 hpair
    obtain ⟨hd, he⟩ := List.forall_mem_cons.1 htop
    have hnone : digitAt e d.shift = none := digitAt_eq_none fun d' hd' h => by
      have := hfirst d' hd'
      omega
    have hsplit (i : Nat) : (digitAt (d :: e) i).getD 0 =
        (if d.shift = i then d.code else 0) + (digitAt e i).getD 0 := by
      rw [digitAt_cons]
      by_cases h : d.shift = i
      · rw [if_pos h, if_pos h, ← h, hnone]; simp
      · rw [if_neg h, if_neg h, zero_add]
    have hmem : d.shift ∈ Finset.range (top + 1) := Finset.mem_range_succ_iff.2 hd
    simp only [hsplit, mul_add, mul_ite, mul_zero, Finset.sum_add_distrib, Finset.sum_ite_eq, hmem, if_true,
      ih hrest he]
    rw [digitSum_cons, mul_comm]

section
variable {A : Type} [AddCommGroup A]

/-- What the schedule adds to an element of a group at a position. -/
def addMultiples (g h : A) (e1 e2 : List Digit) (i : Nat) (q : A) : A :=
  q + (digitAt e1 i).getD 0 • g + (digitAt e2 i).getD 0 • h

/-- An element that is added at position `i` is doubled exactly `i` times (R266). -/
theorem combineWith_double (g h : A) (e1 e2 : List Digit) (top : Nat) (q : A) :
    combineWith (fun q : A => q + q) (addMultiples g h e1 e2) top q =
      (2 : Int) ^ top • q + (∑ i ∈ Finset.range (top + 1), 2 ^ i * (digitAt e1 i).getD 0) • g +
        (∑ i ∈ Finset.range (top + 1), 2 ^ i * (digitAt e2 i).getD 0) • h := by
  induction top generalizing q with
  | zero => simp [combineWith, addMultiples]
  | succ top ih =>
    rw [combineWith, ih, Finset.sum_range_succ _ (top + 1), Finset.sum_range_succ _ (top + 1), addMultiples]
    module

theorem combineWith_encodings (g h : A) (k1 k2 : Bignum) {top : Nat}
    (htop : IsTopPosition (encodeScalar k1 ++ encodeScalar k2) top) :
    combineWith (fun q : A => q + q) (addMultiples g h (encodeScalar k1) (encodeScalar k2)) top 0 =
      k1.toNat • g + k2.toNat • h := by
  have htop1 : ∀ d ∈ encodeScalar k1, d.shift ≤ top := fun d hd => htop.1 d (List.mem_append_left _ hd)
  have htop2 : ∀ d ∈ encodeScalar k2, d.shift ≤ top := fun d hd => htop.1 d (List.mem_append_right _ hd)
  rw [combineWith_double, sum_digitAt (encodeScalar_pairwise k1) htop1,
    sum_digitAt (encodeScalar_pairwise k2) htop2, digitSum_encodeScalar, digitSum_encodeScalar, smul_zero,
    zero_add, natCast_zsmul, natCast_zsmul]

/-! ### Points that follow a group (R269) -/

variable {good : Point → Prop} {val : Point → A}

/-- The point is good and stands for the element. -/
def HasValue (good : Point → Prop) (val : Point → A) (q : Point) (v : A) : Prop := good q ∧ val q = v

section
variable (hgroup : FollowsGroup good val)
include hgroup

theorem hasValue_infinity : HasValue good val infinity 0 := hgroup.infinity _ rfl

theorem hasValue_double {q : Point} {v : A} (h : HasValue good val q v) :
    HasValue good val (pdblValue q) (v + v) := by
  obtain ⟨hq, rfl⟩ := h
  exact hgroup.double q hq

theorem hasValue_negate {q : Point} {v : A} (h : HasValue good val q v) :
    HasValue good val (pnegValue q) (-v) := by
  obtain ⟨hq, rfl⟩ := h
  exact hgroup.negate q hq

theorem hasValue_add {q r : Point} {v w : A} (hq : HasValue good val q v)
    (hr : HasValue good val r w) (hne : ¬ MeetsEqual q r) : HasValue good val (paddValue q r) (v + w) := by
  obtain ⟨hq, rfl⟩ := hq
  obtain ⟨hr, rfl⟩ := hr
  exact hgroup.add q r hq hr hne

/-- Entry `k` of the table's odd half is the multiple `2k + 1` (R253). -/
theorem hasValue_pretable_odd {x y : Bignum} {v : A} (hbase : HasValue good val ⟨x, y, 1#256⟩ v)
    (havoid : TableAvoidsEqual x y) {k : Nat} (hk : k < 8) :
    HasValue good val ((pretable x y).getD k infinity) ((2 * k + 1 : Int) • v) := by
  induction k with
  | zero =>
    rw [getD_of_getElem? (pretable_zero x y)]
    simpa using hbase
  | succ k ih =>
    have hne := havoid (k + 1) (by omega) hk
    have hsum := hasValue_add hgroup (ih (by omega)) (hasValue_double hgroup hbase) hne
    have hvalue : (2 * (k : Int) + 1) • v + (v + v) = (2 * ((k + 1 : Nat) : Int) + 1) • v := by
      push_cast; module
    rwa [getD_of_getElem? (pretable_succ x y (by omega)), ← hvalue]

/-- The entry that a digit of an encoding selects is the digit's multiple of the point (R252, R253). -/
theorem hasValue_pretable {x y : Bignum} {v : A} (hbase : HasValue good val ⟨x, y, 1#256⟩ v)
    (havoid : TableAvoidsEqual x y) {k : Bignum} {d : Digit} (hd : d ∈ encodeScalar k) :
    HasValue good val ((pretable x y).getD (tableIndex d.code) infinity) (d.code • v) := by
  obtain ⟨-, -, hodd, hlower, hupper⟩ := (encodeScalar_digitsFrom k).digit hd
  obtain ⟨j, hj, hcode⟩ := odd_code_cases hodd hlower hupper
  have hvalue := hasValue_pretable_odd hgroup hbase havoid hj
  obtain hcode | hcode := hcode <;> rw [hcode]
  · rwa [tableIndex_odd]
  · rw [tableIndex_neg_odd, getD_of_getElem? (pretable_neg x y hj), neg_smul]
    exact hasValue_negate hgroup hvalue

/-- An addition of the schedule that does not meet equal points adds the digit's multiple (R266, R269). -/
theorem hasValue_addDigit {x y : Bignum} {v w : A} (hbase : HasValue good val ⟨x, y, 1#256⟩ v)
    (havoid : TableAvoidsEqual x y) {k : Bignum} {i : Nat} {q : Point}
    (hne : ∀ d ∈ encodeScalar k, d.shift = i →
      ¬ MeetsEqual q ((pretable x y).getD (tableIndex d.code) infinity)) (hq : HasValue good val q w) :
    HasValue good val (addDigit (encodeScalar k) (pretable x y) i q)
      (w + (digitAt (encodeScalar k) i).getD 0 • v) := by
  obtain ⟨d, hd, hshift, hat⟩ | ⟨-, hat⟩ := digitAt_cases (encodeScalar k) i
  · rw [addDigit_of_some hat, hat, Option.getD_some]
    exact hasValue_add hgroup hq (hasValue_pretable hgroup hbase havoid hd) (hne d hd hshift)
  · rwa [addDigit_of_none hat, hat, Option.getD_none, zero_smul, add_zero]

/-- From every position the points of the schedule end with the value of the same schedule in the group. -/
theorem hasValue_schedule {k1 k2 px py : Bignum} {g h : A} {top : Nat}
    {before mid after : Nat → Point} (hg : HasValue good val ⟨gx, gy, 1#256⟩ g)
    (hp : HasValue good val ⟨px, py, 1#256⟩ h)
    (hgt : TableAvoidsEqual gx gy) (hpt : TableAvoidsEqual px py)
    (hs : FollowsSchedule (encodeScalar k1) (encodeScalar k2) (pretable gx gy) (pretable px py) top
      before mid after)
    (hne : ScheduleAvoidsEqual (encodeScalar k1) (encodeScalar k2) (pretable gx gy) (pretable px py)
      before mid) {i : Nat} (hi : i ≤ top) {v : A} (hv : HasValue good val (before i) v) :
    HasValue good val (after 0)
      (combineWith (fun q : A => q + q) (addMultiples g h (encodeScalar k1) (encodeScalar k2)) i v) := by
  obtain ⟨hneG, hneP⟩ := hne
  have hposition {i : Nat} (hi : i ≤ top) {v : A} (hv : HasValue good val (before i) v) :
      HasValue good val (after i) (addMultiples g h (encodeScalar k1) (encodeScalar k2) i v) := by
    have hmid := hasValue_addDigit (k := k1) (i := i) hgroup hg hgt
      (fun d hd hshift => hshift ▸ hneG d hd) hv
    rw [← hs.mid_eq hi] at hmid
    have hafter := hasValue_addDigit (k := k2) (i := i) hgroup hp hpt
      (fun d hd hshift => hshift ▸ hneP d hd) hmid
    rwa [← hs.after_eq hi] at hafter
  induction i generalizing v with
  | zero => exact hposition hi hv
  | succ i ih =>
    refine ih (by omega) ?_
    rw [hs.double i hi]
    exact hasValue_double hgroup (hposition hi hv)

end
end

/-- Settles O51: `combineWith_double` is the schedule in a group, and `hasValue_schedule` brings
the accumulator to it. -/
theorem scheduleComputesCombination : Obligations.ScheduleComputesCombination := by
  refine ⟨fun A _ g h k1 k2 => combineWith_encodings g h k1 k2 (isTopPosition_topShift _), ?_⟩
  intro A _ good val k1 k2 px py top before mid after e1 e2 hgroup hg hp hgt hpt htop hs hne
  have hstart : HasValue good val (before top) 0 := by
    rw [hs.start]
    exact hasValue_infinity hgroup
  obtain ⟨-, hvalue⟩ := hasValue_schedule hgroup ⟨hg, rfl⟩ ⟨hp, rfl⟩ hgt hpt hs hne le_rfl hstart
  rw [dsmAccumulator_eq_after htop hs, hvalue, combineWith_encodings _ _ k1 k2 htop]

end Sys2Proof.Machine
end

section
/-! SUPPORT. What no command changes (spec/60_exceptions.md R403, R416), and NOP (spec/43_sm3.md R340)
(O12, O60). -/

namespace Sys2Proof.Machine

/-- No destination of a command is a field of the host's side. -/
theorem Writes.sameHostSide {i : Instr} {s u : State} (h : Writes s i u) : SameHostSide s u := by
  cases h <;> exact ⟨rfl, rfl, rfl, rfl, rfl, rfl, rfl, rfl, rfl⟩

/-- The indicators of a completion are not of the host's side. -/
theorem SameHostSide.finish {s u : State} (h : SameHostSide s u) (c : ResultCode) :
    SameHostSide s (u.finish c) := h

/-- Settles O12: neither the destinations (`Writes.sameHostSide`) nor the indicators are of the host's
side. -/
theorem noCommandTouchesHostSide : Obligations.NoCommandTouchesHostSide := by
  intro i s t h
  obtain ⟨-, ⟨u, hu, rfl⟩ | ⟨c, -, -, rfl⟩⟩ := exec_cases h
  · exact (effect_writes hu).sameHostSide.finish .ok
  · have hrefl : SameHostSide s s := Writes.nothing.sameHostSide
    exact hrefl.finish c

/-- Settles O60: NOP's effect is the state itself. -/
theorem nopOnlyCompletes : Obligations.NopOnlyCompletes := fun s =>
  ⟨hasWord_fields .nop, _, exec_of_effect (i := .nop) rfl rfl, onlyIndicatorsChange_finish s .ok⟩

end Sys2Proof.Machine
end

section
/-! SUPPORT. The SM3 compression function on a sequence of words and a sequence of states
(spec/43_sm3.md R301 to R309) (O54). -/

namespace Sys2Proof.Machine

/-! ### The message expansion (R307) -/

section
variable {w : Nat → Word}

/-- The words before `W_j`, as the model's expansion keeps them. -/
theorem getD_map_range {i j : Nat} (h : i < j) : ((List.range j).map w).getD i 0 = w i := by
  simp [List.getD, h]

theorem expandWord_map_range {j : Nat} (h : 16 ≤ j) :
    expandWord ((List.range j).map w) =
      sm3P1 (w (j - 16) ^^^ w (j - 9) ^^^ (w (j - 3)).rotateLeft 15) ^^^
        (w (j - 13)).rotateLeft 7 ^^^ w (j - 6) := by
  simp only [expandWord, List.length_map, List.length_range]
  rw [getD_map_range (by omega), getD_map_range (by omega), getD_map_range (by omega),
    getD_map_range (by omega), getD_map_range (by omega)]

/-- Where the words follow the recurrence, `k` more words of the expansion are the next `k` of them. -/
theorem expandMore_map_range (k : Nat) {j : Nat}
    (h : ∀ i, j ≤ i → i < j + k → expandWord ((List.range i).map w) = w i) :
    expandMore k ((List.range j).map w) = (List.range (j + k)).map w := by
  induction k generalizing j with
  | zero => rfl
  | succ k ih =>
    have hnext : (List.range j).map w ++ [w j] = (List.range (j + 1)).map w := by
      rw [List.range_succ, List.map_append, List.map_singleton]
    rw [expandMore, h j le_rfl (by omega), hnext, ih fun i hi hik => h i (by omega) (by omega),
      Nat.add_right_comm, Nat.add_assoc]

/-- A 16-word block is the first 16 words of the sequence that starts with it. -/
theorem block_eq_map_range {block : List Word} (hlen : block.length = 16)
    (hw : ∀ j, j < 16 → block[j]? = some (w j)) : block = (List.range 16).map w := by
  refine List.ext_getElem? fun j => ?_
  by_cases hj : j < 16
  · simp [hw j hj, hj]
  · simp [hlen, hj]

end

/-! ### The rounds (R308) -/

/-- `k` rounds from round `j` on lead along any sequence of states that follows the round. -/
theorem sm3Rounds_eq {words : List Word} {w : Nat → Word} {st : Nat → Chain} (k : Nat) {j : Nat}
    (hwords : ∀ i, i < j + k + 4 → words.getD i 0 = w i)
    (hround : ∀ i, i < j + k → st (i + 1) = sm3Round i (w i) (w i ^^^ w (i + 4)) (st i)) :
    sm3Rounds words k j (st j) = st (j + k) := by
  induction k generalizing j with
  | zero => rfl
  | succ k ih =>
    rw [sm3Rounds, hwords j (by omega), hwords (j + 4) (by omega), ← hround j (by omega),
      ih (fun i hi => hwords i (by omega)) (fun i hi => hround i (by omega)), Nat.add_right_comm,
      Nat.add_assoc]

/-- Settles O54: the expanded words are the given ones (`expandMore_map_range`), and the rounds on them
lead along the given states (`sm3Rounds_eq`). -/
theorem compressionFollowsItsFormulas : Obligations.CompressionFollowsItsFormulas := by
  intro v block w st hlen hblock hexpand hstart hround
  have hword (j : Nat) (h16 : 16 ≤ j) (h68 : j < 16 + 52) :
      expandWord ((List.range j).map w) = w j := by
    rw [expandWord_map_range h16]
    exact (hexpand j h16 h68).symm
  have hexpanded : expand block = (List.range 68).map w := by
    rw [expand, block_eq_map_range hlen hblock, expandMore_map_range 52 hword]
  have hrounds : sm3Rounds (expand block) 64 0 (st 0) = st 64 := by
    rw [hexpanded]
    exact sm3Rounds_eq 64 (fun i hi => getD_map_range hi) fun i hi => hround i (by omega)
  rw [compress, ← hstart, hrounds]
  rfl

end Sys2Proof.Machine
end

section
/-! SUPPORT. The padding of the SM3 message tail (spec/43_sm3.md R310, R311) (O58). -/

namespace Sys2Proof.Machine

theorem beWords_append {xs : List Byte} (n : Nat) (h : xs.length = 4 * n) (ys : List Byte) :
    beWords (xs ++ ys) = beWords xs ++ beWords ys := by
  induction n generalizing xs with
  | zero => rw [List.length_eq_zero_iff.1 h]; rfl
  | succ n ih =>
    match xs, h with
    | b0 :: b1 :: b2 :: b3 :: rest, h =>
      have hrest : rest.length = 4 * n := by simp only [List.length_cons] at h; omega
      simp only [List.cons_append, beWords, ih hrest]

theorem length_beWords {xs : List Byte} (n : Nat) (h : xs.length = 4 * n) :
    (beWords xs).length = n := by
  induction n generalizing xs with
  | zero => rw [List.length_eq_zero_iff.1 h]; rfl
  | succ n ih =>
    match xs, h with
    | b0 :: b1 :: b2 :: b3 :: rest, h =>
      have hrest : rest.length = 4 * n := by simp only [List.length_cons] at h; omega
      rw [beWords, List.length_cons, ih hrest]

/-- A byte of a word that is a slice of `x` is a slice of `x`. -/
theorem byteOf_extractLsb' {m : Nat} (x : BitVec m) (start t : Nat) :
    byteOf (x.extractLsb' start 32) t = x.extractLsb' (start + (24 - 8 * t)) 8 := by
  apply BitVec.eq_of_getLsbD_eq
  intro i hi
  have h32 : 24 - 8 * t + i < 32 := by omega
  simp [byteOf, BitVec.getLsbD_extractLsb', h32, Nat.add_assoc]

/-- The words of a 64-bit value are its two halves, the high one first (R311). -/
theorem beWords_beBytes64 (x : BitVec 64) :
    beWords (beBytes64 x) = [x.extractLsb' 32 32, x.extractLsb' 0 32] := by
  have hbytes : beBytes64 x = [x.extractLsb' 32 32, x.extractLsb' 0 32].flatMap bytesOf := by
    simp [beBytes64, bytesOf, byteOf_extractLsb']
  rw [hbytes, beWords_flatMap_bytesOf]

theorem length_beBytes64 (x : BitVec 64) : (beBytes64 x).length = 8 := rfl

theorem padBytes_of_short {tail : List Byte} (h : tail.length ≤ 55) (total : Nat) :
    padBytes tail total =
      [tail ++ [0x80#8] ++ List.replicate (55 - tail.length) 0#8 ++ beBytes64 (bitLength total)] :=
  if_pos h

theorem padBytes_of_long {tail : List Byte} (h : ¬ tail.length ≤ 55) (total : Nat) :
    padBytes tail total =
      [tail ++ [0x80#8] ++ List.replicate (63 - tail.length) 0#8,
       List.replicate 56 0#8 ++ beBytes64 (bitLength total)] :=
  if_neg h

/-- The last padding block ends in the bit length. -/
theorem padBytes_getLast? (tail : List Byte) (total : Nat) :
    ∃ front : List Byte, front.length = 56 ∧
      (padBytes tail total).getLast? = some (front ++ beBytes64 (bitLength total)) := by
  by_cases h : tail.length ≤ 55
  · refine ⟨tail ++ [0x80#8] ++ List.replicate (55 - tail.length) 0#8, ?_,
      by rw [padBytes_of_short h, List.getLast?_singleton]⟩
    simp only [List.length_append, List.length_singleton, List.length_replicate]
    omega
  · exact ⟨_, List.length_replicate, by rw [padBytes_of_long h]; rfl⟩

/-- Words 14 and 15 of the last padding block are the halves of the bit length (R311). -/
theorem pad_getLast? (tail : List Byte) (total : Nat) :
    ∃ front : List Word, front.length = 14 ∧ (pad tail total).getLast? =
      some (front ++ [(bitLength total).extractLsb' 32 32, (bitLength total).extractLsb' 0 32]) := by
  obtain ⟨front, hfront, hlast⟩ := padBytes_getLast? tail total
  refine ⟨beWords front, length_beWords 14 hfront, ?_⟩
  rw [pad, List.getLast?_map, hlast, Option.map_some, beWords_append 14 hfront, beWords_beBytes64]

/-- Settles O58: one or two blocks by the length of the tail, and `pad_getLast?` for the length words. -/
theorem paddingFillsWholeBlocks : Obligations.PaddingFillsWholeBlocks := by
  intro tail total htail
  obtain ⟨front, hfront, hlast⟩ := pad_getLast? tail total
  have hlengthWords : ∃ w, (pad tail total).getLast? = some w ∧ w.length = 16 ∧
      w[14]? = some ((bitLength total).extractLsb' 32 32) ∧
      w[15]? = some ((bitLength total).extractLsb' 0 32) :=
    ⟨_, hlast, by simp [hfront], by simp [hfront], by simp [hfront]⟩
  by_cases h : tail.length ≤ 55
  · rw [padBytes_of_short h]
    refine ⟨by simp [h], ?_, ⟨55 - tail.length, by simp [bitLength]⟩, hlengthWords⟩
    simp only [List.forall_mem_singleton, List.length_append, List.length_replicate,
      List.length_singleton, length_beBytes64]
    omega
  · rw [padBytes_of_long h]
    refine ⟨by simp [h], ?_, ⟨63 - tail.length + 56, ?_⟩, hlengthWords⟩
    · refine List.forall_mem_cons.2 ⟨?_, List.forall_mem_singleton.2 ?_⟩ <;>
        simp only [List.length_append, List.length_replicate, List.length_singleton, length_beBytes64]
      omega
    · simp [bitLength, List.replicate_add]

end Sys2Proof.Machine
end

section
/-! SUPPORT. The completions of the SM3 commands (spec/43_sm3.md R320 to R324): SM3BLK and SM3FIN are one
checked write of the context each, and the order of the checks is said once (O55 to O57). -/

namespace Sys2Proof.Machine

theorem sm3Check_of_inactive {s : State} (h : s.status.sm3st ≠ .active) (bytes : Nat) :
    sm3Check s bytes = .error .sm3State := if_pos h

theorem sm3Check_of_overflow {s : State} {bytes : Nat} (h : s.status.sm3st = .active)
    (hlen : 2 ^ 64 - 1 < s.sm3len.toNat + bytes) : sm3Check s bytes = .error .sm3Len := by
  have hover : lengthOverflows s.sm3len bytes = true := decide_eq_true hlen
  rw [sm3Check, if_neg (not_not_intro h), if_pos hover]

theorem sm3Check_of_fits {s : State} {bytes : Nat} (h : s.status.sm3st = .active)
    (hlen : s.sm3len.toNat + bytes ≤ 2 ^ 64 - 1) : sm3Check s bytes = .ok () := by
  have hfits : lengthOverflows s.sm3len bytes = false := decide_eq_false (by omega)
  rw [sm3Check, if_neg (not_not_intro h), hfits]
  rfl

/-- A successful completion of a command that wrote the context. -/
theorem onlySm3Changes_finish (s : State) (v : Chain) (len : BitVec 64) (st : Sm3State) :
    OnlySm3Changes s ((s.writeSm3 v len st).finish .ok) :=
  ⟨rfl, rfl, ⟨rfl, rfl, rfl⟩, rfl, rfl, ⟨rfl, rfl, rfl, rfl, rfl, rfl, rfl, rfl, rfl⟩,
    completes_finish_ok rfl⟩

theorem holdsChain_finish (s : State) (v : Chain) (len : BitVec 64) (st : Sm3State) :
    HoldsChain ((s.writeSm3 v len st).finish .ok) v := rfl

/-- The byte counter takes `bytes` more where they fit (R323). -/
theorem toNat_add_bytes {len : BitVec 64} {bytes : Nat} (h : len.toNat + bytes ≤ 2 ^ 64 - 1) :
    (len + BitVec.ofNat 64 bytes).toNat = len.toNat + bytes := by
  rw [BitVec.toNat_add, BitVec.toNat_ofNat, Nat.add_mod_mod, Nat.mod_eq_of_lt (by omega)]

/-- `i` takes `bytes` bytes of the buffer into the context: it is one checked write, whose operands are
read in an ACTIVE context only (R322, R324). -/
structure TakesBytes (i : Instr) (s : State) (bytes : Nat) (v : Chain) (st : Sm3State) : Prop where
  operandsWritten_eq : operandsWritten i s = (s.status.sm3st != .active || s.writtenV && s.writtenMsg bytes)
  effect_eq : effect i s =
    (sm3Check s bytes).map fun _ => s.writeSm3 v (s.sm3len + BitVec.ofNat 64 bytes) st

theorem takesBytes_sm3blk (s : State) :
    TakesBytes .sm3blk s 64 (compress s.readV s.readMsg) s.status.sm3st := ⟨rfl, rfl⟩

theorem takesBytes_sm3fin (c : Fin 64) (s : State) :
    TakesBytes (.sm3fin c) s c
      ((pad (s.readTail c) (s.sm3len.toNat + c)).foldl compress s.readV) .final := ⟨rfl, rfl⟩

section
variable {i : Instr} {s : State} {bytes : Nat} {v : Chain} {st : Sm3State}

/-- The state check comes first and reads no operand (R320, spec/70_reset_and_hazards.md R453). -/
theorem TakesBytes.exec_of_inactive (hi : TakesBytes i s bytes v st) (h : s.status.sm3st ≠ .active) :
    ∃ t, exec i s = .next t ∧ OnlyIndicatorsChange s t 4#4 := by
  refine exec_of_effect_error (c := .sm3State) (by simp [hi.operandsWritten_eq, h]) ?_
  rw [hi.effect_eq, map_eq_error, sm3Check_of_inactive h]

theorem TakesBytes.operandsWritten_eq_true (hi : TakesBytes i s bytes v st) (hv : s.writtenV = true)
    (hmsg : s.writtenMsg bytes = true) : operandsWritten i s = true := by
  simp [hi.operandsWritten_eq, hv, hmsg]

variable (hactive : s.status.sm3st = .active) (hv : s.writtenV = true) (hmsg : s.writtenMsg bytes = true)
include hactive hv hmsg

/-- The length check comes after the operands (R323, spec/60_exceptions.md R406). -/
theorem TakesBytes.exec_of_overflow (hi : TakesBytes i s bytes v st)
    (hlen : 2 ^ 64 - 1 < s.sm3len.toNat + bytes) :
    ∃ t, exec i s = .next t ∧ OnlyIndicatorsChange s t 5#4 := by
  refine exec_of_effect_error (c := .sm3Len) (hi.operandsWritten_eq_true hv hmsg) ?_
  rw [hi.effect_eq, map_eq_error, sm3Check_of_overflow hactive hlen]

theorem TakesBytes.exec_of_fits (hi : TakesBytes i s bytes v st)
    (hlen : s.sm3len.toNat + bytes ≤ 2 ^ 64 - 1) :
    ∃ t, exec i s = .next t ∧ HoldsChain t v ∧ t.sm3len.toNat = s.sm3len.toNat + bytes ∧
      t.status.sm3st = st ∧ OnlySm3Changes s t := by
  have heffect : effect i s = .ok (s.writeSm3 v (s.sm3len + BitVec.ofNat 64 bytes) st) := by
    rw [hi.effect_eq, sm3Check_of_fits hactive hlen]
    rfl
  exact ⟨_, exec_of_effect (hi.operandsWritten_eq_true hv hmsg) heffect, holdsChain_finish s v _ st,
    toNat_add_bytes hlen, rfl, onlySm3Changes_finish s v _ st⟩

end

/-- Settles O55: SM3INIT has no operand and no check. -/
theorem sm3initStartsContext : Obligations.Sm3initStartsContext := fun s =>
  ⟨hasWord_fields .sm3init, _, exec_of_effect (i := .sm3init) rfl rfl, holdsChain_finish s sm3Iv _ _,
    rfl, rfl, onlySm3Changes_finish s _ _ _⟩

/-- Settles O56: SM3BLK takes 64 bytes, and SM3ST stays ACTIVE. -/
theorem sm3blkCompressesOneBlock : Obligations.Sm3blkCompressesOneBlock := by
  intro s
  have htakes := takesBytes_sm3blk s
  refine ⟨hasWord_fields .sm3blk, htakes.exec_of_inactive,
    fun hactive hv hmsg => htakes.exec_of_overflow hactive hv hmsg, fun hactive hv hmsg hlen => ?_⟩
  rw [hactive] at htakes
  exact htakes.exec_of_fits hactive hv hmsg hlen

/-- Settles O57: SM3FIN takes `c` bytes and leaves the context FINAL. -/
theorem sm3finPadsAndFinishes : Obligations.Sm3finPadsAndFinishes := by
  intro c s
  have htakes := takesBytes_sm3fin c s
  exact ⟨hasWord_fields (.sm3fin c), htakes.exec_of_inactive,
    fun hactive hv hmsg => htakes.exec_of_overflow hactive hv hmsg,
    fun hactive hv hmsg => htakes.exec_of_fits hactive hv hmsg⟩

end Sys2Proof.Machine
end

section
/-! SUPPORT. What a completion does to the indicators, which commands can fail, and the order of a completion
and a host access of one cycle (spec/60_exceptions.md R400 to R410) (O9 to O11, O14). -/

namespace Sys2Proof.Machine

/-! ### The indicators of every completion (R401, R410) -/

section
variable {i : Instr} {s t u : State}

/-- The sticky ERR is no destination of a command. -/
theorem Writes.err_eq (h : Writes s i u) : u.status.err = s.status.err := by
  cases h <;> rfl

theorem completes_finish (s : State) (c : ResultCode) : Completes s (s.finish c) c.bits := by
  obtain ⟨-, -, -, -, -, -, -, h⟩ := onlyIndicatorsChange_finish s c
  exact h

/-- Every command that answers a state completes, with the code it leaves in ERRCODE. -/
theorem exec_completes (h : exec i s = .next t) : Completes s t t.errcode := by
  obtain ⟨-, ⟨u, hu, rfl⟩ | ⟨c, -, -, rfl⟩⟩ := exec_cases h
  · exact completes_finish_ok (effect_writes hu).err_eq
  · exact completes_finish s c

/-- So does every word in CMD, legal or not. -/
theorem completion_completes (h : completion s = .next t) : Completes s t t.errcode := by
  obtain ⟨i, -, he⟩ | ⟨e, -, rfl⟩ := completion_cases h
  · exact exec_completes he
  · exact completes_finish s .illegal

end

/-- Settles O9: the indicators are those of `Completes`, and a command keeps CTRL.IE, so that IRQ follows
DONE. -/
theorem completionSetsIndicators : Obligations.CompletionSetsIndicators := by
  intro i s t h
  obtain ⟨-, herr, hdone, hbusy⟩ := exec_completes h
  obtain ⟨-, hie, -⟩ := noCommandTouchesHostSide i s t h
  refine ⟨hdone, hbusy, herr, ?_⟩
  rw [State.irq, hdone, Bool.and_true, hie]

/-! ### Failing commands (R400, R402, R404) -/

section
variable {i : Instr} {s t : State}

/-- A command that leaves an ERRCODE other than 0 is one whose effect fails with that code. -/
theorem exec_of_errcode (h : exec i s = .next t) (hne : t.errcode ≠ 0#4) :
    ∃ c, effect i s = .error c ∧ t = s.finish c := by
  obtain ⟨-, ⟨u, -, rfl⟩ | ⟨c, he, -, rfl⟩⟩ := exec_cases h
  · exact absurd rfl hne
  · exact ⟨c, he, rfl⟩

/-- A failing command changes only the indicators (R402). -/
theorem exec_onlyIndicatorsChange (h : exec i s = .next t) (hne : t.errcode ≠ 0#4) :
    OnlyIndicatorsChange s t t.errcode := by
  obtain ⟨c, -, rfl⟩ := exec_of_errcode h hne
  exact onlyIndicatorsChange_finish s c

end

/-- Settles O10: a failing command and an illegal word are `finish` and nothing else. -/
theorem failingCommandWritesNothing : Obligations.FailingCommandWritesNothing := by
  refine ⟨fun i s t h hne => exec_onlyIndicatorsChange h hne, fun s t h hne => ?_⟩
  obtain ⟨i, -, he⟩ | ⟨e, -, rfl⟩ := completion_cases h
  · exact exec_onlyIndicatorsChange he hne
  · exact onlyIndicatorsChange_finish s .illegal

/-- DSM fails with E_INF alone: its accumulator's Z is canonical, so it is 0 mod p only as 0
(spec/42_scalar.md R267). -/
theorem dsmValue_error {k1 k2 px py : Bignum} {c : ResultCode} (h : dsmValue k1 k2 px py = .error c) :
    c = .inf := by
  obtain ⟨hc, -⟩ | ⟨-, hz, hzero⟩ := toaffValue_error h
  · exact hc
  · have hlt : (dsmAccumulator k1 k2 px py).z.toNat < p := zCanonical_dsmAccumulator k1 k2 px py
    rw [isZeroP, beq_iff_eq, Nat.mod_eq_of_lt hlt, toNat_eq_zero] at hzero
    exact absurd hzero hz

/-- The checks of the SM3 context fail with the codes 4 and 5 (spec/43_sm3.md R320, R323). -/
theorem sm3Check_error_bits {s : State} {k : Nat} {c : ResultCode} (h : sm3Check s k = .error c) :
    c.bits = 4#4 ∨ c.bits = 5#4 := by
  obtain ⟨rfl, -⟩ | ⟨rfl, -⟩ := sm3Check_error h
  · exact .inl rfl
  · exact .inr rfl

/-- Settles O11, command by command: the others' effects have no error. -/
theorem onlyNamedCommandsFail : Obligations.OnlyNamedCommandsFail := by
  intro i s t h hne
  obtain ⟨c, he, rfl⟩ := exec_of_errcode h hne
  rw [State.finish_errcode]
  cases i <;> simp only [effect, map_eq_error, reduceCtorEq] at he
  case invp d a =>
    rw [invp_error he]
    exact .inl ⟨rfl, .inl ⟨d, a, rfl⟩⟩
  case toaff d a =>
    obtain ⟨rfl, -⟩ | ⟨rfl, -⟩ := toaffValue_error he
    · exact .inr (.inl ⟨rfl, .inl ⟨d, a, rfl⟩⟩)
    · exact .inl ⟨rfl, .inr ⟨d, a, rfl⟩⟩
  case dsm d a b e =>
    rw [dsmValue_error he]
    exact .inr (.inl ⟨rfl, .inr ⟨d, a, b, e, rfl⟩⟩)
  case sm3blk => exact .inr (.inr ⟨sm3Check_error_bits he, .inl rfl⟩)
  case sm3fin imm => exact .inr (.inr ⟨sm3Check_error_bits he, .inr ⟨imm, rfl⟩⟩)

/-! ### The order within one cycle (R407) -/

section
variable {s t u : State}

/-- The word in CMD completes wherever it meets the operands it had, all of them written. -/
theorem completion_of_operandsWritten (hw : ∀ i, decode s.cmd = .ok i → operandsWritten i s = true)
    (hcmd : t.cmd = s.cmd) (hb : t.b = s.b) (hj : t.j = s.j) (hv : t.v = s.v) (hm : t.msg = s.msg)
    (hst : t.status.sm3st = s.status.sm3st) : ∃ u, completion t = .next u := by
  obtain h | ⟨i, hd, huninit, -⟩ := completion_outcome t
  · exact h
  · rw [operandsWritten_congr i hb hj hv hm hst, hw i (hcmd ▸ hd)] at huninit
    cases huninit

/-- A STATUS write comes before the completion of its cycle. -/
theorem step_of_statusWrite {w : Word} {hf : Bool} {rest : List Cycle} (hb : s.status.busy = true)
    (hs : s.schedule = .run (some (.write 32 0x008 w)) true hf :: rest) :
    step s = completion { s.advance with status := s.status.clear w } := by
  have hc : s.nextCycle = .run (some (.write 32 0x008 w)) true hf := by
    rw [State.nextCycle, hs, List.headD_cons]
  have haccess : hostAccess (.write 32 0x008 w) s.advance =
      .next { s.advance with status := s.status.clear w } := hostAccess_write (by decide) rfl w _
  simp [step_eq, hc, runCycle, hb, accessFirst, Access.isStatusWrite, haccess, andThen]

/-- A soft reset comes after the completion of its cycle. -/
theorem step_of_softReset {w : Word} {hf : Bool} {rest : List Cycle} (hb : s.status.busy = true)
    (hw : w.getLsbD 0 = true) (hs : s.schedule = .run (some (.write 32 0x004 w)) true hf :: rest)
    (hu : completion s.advance = .next u) : step s = .next u.softReset := by
  have hc : s.nextCycle = .run (some (.write 32 0x004 w)) true hf := by
    rw [State.nextCycle, hs, List.headD_cons]
  have haccess : hostAccess (.write 32 0x004 w) u = .next (u.writeCtrl w) :=
    hostAccess_write (by decide) rfl w u
  rw [writeCtrl_reset hw] at haccess
  simp [step_eq, hc, runCycle, hb, accessFirst, Access.isStatusWrite, Access.isSoftReset, hw, hu, haccess,
    andThen]

end

/-- Settles O14: after a STATUS write the completion still sets its indicators, and a soft reset takes the
control state of what the completion left. -/
theorem completionOrderWithinOneCycle : Obligations.CompletionOrderWithinOneCycle := by
  refine ⟨fun s w hf rest hb hops hs => ?_, fun s w hf rest hb hops hw hs => ?_⟩
  · obtain ⟨t, ht⟩ := completion_of_operandsWritten
      (t := { s.advance with status := s.status.clear w }) hops rfl rfl rfl rfl rfl rfl
    obtain ⟨-, herr, hdone, hbusy⟩ := completion_completes ht
    refine ⟨t, (step_of_statusWrite hb hs).trans ht, hdone, hbusy, fun hne => ?_⟩
    rw [herr, bne_iff_ne.2 hne, Bool.or_true]
  · obtain ⟨u, hu⟩ := completion_of_operandsWritten (t := s.advance) hops rfl rfl rfl rfl rfl rfl
    exact ⟨u.softReset, u, hu, step_of_softReset hb hw hs hu, controlIsReset_softReset u, rfl, rfl, rfl, rfl⟩

end Sys2Proof.Machine
end

section
/-! SUPPORT. Hardware reset and the latency of a command (O8, O25; spec/70_reset_and_hazards.md R450, R451,
R470). -/

namespace Sys2Proof.Machine

/-! ### Hardware reset -/

/-- Hardware reset gives every control register its reset value (R450). -/
theorem controlIsReset_hardwareReset (s : State) : ControlIsReset s.hardwareReset := by
  simp [ControlIsReset, State.irq]

/-- Hardware reset leaves no word of the data storage written (R450). -/
theorem storageIsUninit_hardwareReset (s : State) : StorageIsUninit s.hardwareReset := by
  simp [StorageIsUninit, BigCell.uninit, PointCell.uninit, WordCell.uninit]

/-- A reset cycle is a hardware reset and nothing else (R451). -/
theorem step_of_reset {s : State} {rest : List Cycle} (hs : s.schedule = .reset :: rest) :
    step s = .next s.advance.hardwareReset := by
  have hc : s.nextCycle = .reset := by rw [State.nextCycle, hs, List.headD_cons]
  rw [step_eq, hc]
  rfl

/-- Settles O25: the reset state is its own hardware reset, and a reset cycle is a hardware reset. -/
theorem hardwareResetLeavesStorageUninit : Obligations.HardwareResetLeavesStorageUninit := by
  refine ⟨controlIsReset_hardwareReset State.reset, storageIsUninit_hardwareReset State.reset,
    fun s rest hs => ⟨s.advance.hardwareReset, step_of_reset hs, controlIsReset_hardwareReset _,
      storageIsUninit_hardwareReset _, ?_⟩⟩
  rw [State.hardwareReset_schedule, State.advance_schedule, hs, List.tail_cons]

/-! ### Runs of several cycles -/

section
variable {M : Host.Core}

theorem run_succ_of_next {s t : M.State} (h : M.step s = .next t) (m : Nat) :
    M.run (m + 1) s = M.run m t := by
  rw [Host.Core.run, h]

theorem run_one (s : M.State) : M.run 1 s = M.step s := by
  rw [Host.Core.run]
  cases M.step s <;> rfl

end

/-! ### Latency (R470) -/

/-- A cycle without an access in which no latency ends is no event: it only takes itself off the schedule. -/
theorem step_of_wait {s : State} {hf : Bool} {rest : List Cycle}
    (hs : s.schedule = .run none false hf :: rest) : step s = .next { s with schedule := rest } := by
  simp [step, runCycle, State.nextCycle, State.advance, State.hasEvent, hs]

/-- A command that stays busy for any number of such cycles completes as one whose latency ends at once. -/
theorem run_of_busy (k : Nat) {s : State} {rest : List Cycle} (hb : s.status.busy = true)
    (hs : s.schedule = List.replicate k (.run none false false) ++ .run none true false :: rest) :
    Host.Core.run core (k + 1) s = completion { s with schedule := rest, epoch := s.epoch + 1 } := by
  induction k generalizing s with
  | zero =>
    have hc : s.nextCycle = .run none true false := by rw [State.nextCycle, hs]; rfl
    have hstep := step_of_latency hb hc
    rw [show s.schedule.tail = rest by rw [hs]; rfl] at hstep
    exact (run_one (M := core) s).trans hstep
  | succ k ih => exact (run_succ_of_next (M := core) (step_of_wait hs) (k + 1)).trans (ih hb rfl)

/-- While idle a cycle with a CMD write accepts the word, whether or not the cycle says that a latency ends
(R44). -/
theorem step_of_cmdWrite {s : State} {w : Word} {lat hf : Bool} {rest : List Cycle}
    (hidle : s.status.busy = false) (hs : s.schedule = .run (some (.write 32 0x00C w)) lat hf :: rest) :
    step s = .next { s with
      cmd := w
      status := { s.status with busy := true }
      schedule := rest
      epoch := s.epoch + 1 } := by
  rw [step_of_access hidle hs, hostAccess_write (by decide) rfl, locate_cmd]
  exact congrArg Host.Outcome.next
    (writeCmd_idle (s := { s with schedule := rest, epoch := s.epoch + 1 }) hidle w)

/-- Settles O8: the first cycle accepts the word, and `run_of_busy` is the induction over the cycles after
it. -/
theorem latencyDoesNotChangeTheResult : Obligations.LatencyDoesNotChangeTheResult := by
  intro s w k lat hf rest hidle hs
  have haccept := run_succ_of_next (M := core) (step_of_cmdWrite hidle hs) (k + 1)
  exact haccept.trans (run_of_busy k rfl rfl)

end Sys2Proof.Machine
end
